-- ==== Sys2Proof/Word.lean ====
section
/-! DEFINITION. The byte and the name, the two elementary things every rule of the spec speaks of. -/

namespace Sys2Proof

/-- One byte; bit 7 is the most significant (R10). The operand ports `chip`, `raddr`, `pos`, `wdata`, `value_in` are
one byte wide (R87). -/
abbrev Byte := BitVec 8

/-- A register name or bit name: a finite character string, compared only for equality (R23). -/
abbrev Name := String

end Sys2Proof
end

