-- ==== Sys2Proof/Syntax.lean ====
section
/-! DEFINITION. The vocabulary of the spec as types: register definitions, frames, error kinds, the request and response
bundles, the instructions (one constructor per row of the opcode table), and the lines of a caller's program. -/

namespace Sys2Proof

/-- A register definition (R22): a 5-bit address, a name, and eight bit names, index 0 being bit 7. -/
structure RegisterDef where
  address : BitVec 5
  name : Name
  bits : Vector Name 8
  deriving DecidableEq, Repr, Inhabited

/-- A register definition as handed to the construction of the table, before any check (R24, R25): nothing is bounded yet. -/
structure RawDef where
  address : Nat
  name : Name
  bits : List Name
  deriving DecidableEq, Repr, Inhabited

/-- The unit exchanged over the transport in both directions: exactly two bytes, the command byte first (R53, R80). -/
structure Frame where
  cmd : Byte
  data : Byte
  deriving DecidableEq, Repr, Inhabited

/-- The error kinds (R200, R207): the four of the source and the spec's own `ReservedOp`. -/
inductive ErrorKind where
  | addressOutOfRange
  | unknownRegister
  | invalidBitPosition
  | transportFailure
  | reservedOp
  deriving DecidableEq, Repr, Inhabited

/-- What the transport does when the caller waits for it (R180): it returns a frame, it fails, or it is silent (it has not
answered; it may never answer). -/
inductive XferAnswer where
  | frame (g : Frame)
  | failure
  | silent
  deriving DecidableEq, Repr, Inhabited

/-- One finished exchange (R57): the frame sent and the frame received; `none` stands for `TransportFailure`. -/
structure Exchange where
  sent : Frame
  got : Option Frame
  deriving DecidableEq, Repr, Inhabited

/-- One of the eight result lanes of `DECBITS` (R89): `bv_name[p]`, `bv_bit[p]`, `bv_keep[p]`. -/
structure Lane where
  name : Name
  bit : Bool
  keep : Bool
  deriving DecidableEq, Repr, Inhabited

/-- The list form of a BitVector (R163): the kept positions in ascending index. -/
abbrev BitList := List (Name × Bool)

/-- The request bundle (R87): every input port of the block. -/
structure Request where
  op : BitVec 3
  chip : Byte
  raddr : Byte
  wdata : Byte
  pos : Byte
  frameIn : Frame
  valueIn : Byte
  defIn : RegisterDef
  deriving DecidableEq, Repr, Inhabited

/-- The response bundle (R89) as one operation drives it: the one result it drives, with `err` = 0, or the error alone
(R205). Ports an operation does not drive carry no meaning and have no value here. -/
inductive Response where
  | error (k : ErrorKind)
  | definition (d : RegisterDef)
  | name (n : Name)
  | frame (f : Frame)
  | value (v : Byte)
  | lanes (l : Vector Lane 8)
  deriving DecidableEq, Repr

/-- What a caller can present: a request bundle to the block, or a frame to the transport. The opcode table has these two
formats, `REQ` and `FRAME` (R97). -/
inductive Presented where
  | request (r : Request)
  | frame (f : Frame)
  deriving DecidableEq, Repr

/-- The rows of the opcode table, with the operands each one reads (R87, R90, R85). -/
inductive Instr where
  | lookup (raddr : Byte)
  | bitname (d : RegisterDef) (pos : Byte)
  | encrd (chip raddr : Byte)
  | encwr (chip raddr wdata : Byte)
  | decrsp (frame : Frame)
  | decbits (value : Byte) (d : RegisterDef)
  | reserved (op : BitVec 3)
  | frameRd (chipLo : BitVec 2) (raddr : BitVec 5) (data : Byte)
  | frameWr (chipLo : BitVec 2) (raddr : BitVec 5) (value : Byte)
  deriving DecidableEq, Repr

/-- A variable of the caller (R95): a name local to its program, and a number so that a repeated sequence (`DUMP`) can keep
the results of every pass. -/
structure Var where
  name : Name
  idx : Nat
  deriving DecidableEq, Repr, Inhabited

/-- What a variable of the caller can hold: the result of an operation or of `XFER`. -/
inductive Value where
  | definition (d : RegisterDef)
  | name (n : Name)
  | frame (f : Frame)
  | byte (v : Byte)
  | bits (l : BitList)
  deriving DecidableEq, Repr

/-- An argument that feeds an 8-bit port (R95): a number, a variable, or a field access `d.address`, `f.cmd`, `f.data`. -/
inductive ByteArg where
  | lit (b : Byte)
  | var (x : Var)
  | address (x : Var)
  | cmd (x : Var)
  | data (x : Var)
  deriving DecidableEq, Repr

/-- An argument that is a frame (R95). -/
inductive FrameArg where
  | lit (f : Frame)
  | var (x : Var)
  deriving DecidableEq, Repr

/-- An argument that is a register definition, by value (R88). -/
inductive DefArg where
  | lit (d : RegisterDef)
  | var (x : Var)
  deriving DecidableEq, Repr

/-- The right side of a line of a caller's program (R95), arguments in the source's order; `present` puts ports on the block
(or a frame on the transport) as they stand, whatever they hold. -/
inductive LineOp where
  | present (p : Presented)
  | lookup (raddr : ByteArg)
  | bitname (d : DefArg) (pos : ByteArg)
  | encrd (chip raddr : ByteArg)
  | encwr (chip raddr wdata : ByteArg)
  | decrsp (frame : FrameArg)
  | decbits (value : ByteArg) (d : DefArg)
  | xfer (frame : FrameArg)
  deriving DecidableEq, Repr

/-- A line `dst <- MNEMONIC arg, ...` (R95); a line without a `dst` keeps its result nowhere. -/
structure Line where
  dst : Option Var
  op : LineOp
  deriving DecidableEq, Repr

end Sys2Proof
end

