-- ==== Sys2Proof/WellFormed.lean ====
section
/-! DEFINITION. Which terms of `Instr` are instructions. Every operand is bounded by its type (R8, R87), but for the code of
the reserved row. -/

namespace Sys2Proof

/-- The reserved row stands for the codes 6 and 7 only (R90, R92); every other term is an instruction, out-of-range `chip`,
`raddr` and `pos` included, since they must be expressible to be refused (R87). -/
def Instr.wf : Instr → Bool
  | .lookup _ => true
  | .bitname _ _ => true
  | .encrd _ _ => true
  | .encwr _ _ _ => true
  | .decrsp _ => true
  | .decbits _ _ => true
  | .reserved op => op == 6 || op == 7
  | .frameRd _ _ _ => true
  | .frameWr _ _ _ => true

/-- An instruction of the `REQ` format: presented to the block on the request bundle (R97). -/
def Instr.isRequest : Instr → Bool
  | .lookup _ => true
  | .bitname _ _ => true
  | .encrd _ _ => true
  | .encwr _ _ _ => true
  | .decrsp _ => true
  | .decbits _ _ => true
  | .reserved _ => true
  | .frameRd _ _ _ => false
  | .frameWr _ _ _ => false

end Sys2Proof
end

