-- ==== Sys2Proof/Decode.lean ====
section
/-! DEFINITION. Decoding what a caller presents, total on every request bundle and every frame; the encoder after it; the
opcode table as rows of match and mask; and the numbering of table words the host uses. -/

namespace Sys2Proof

/-- The 16-bit packing of a frame: the command byte in bits 15:8 (R53, R80). -/
def Frame.toWord (f : Frame) : BitVec 16 := f.cmd ++ f.data

/-- The frame a 16-bit word packs (R53, R80). -/
def Frame.ofWord (w : BitVec 16) : Frame := { cmd := w.extractLsb' 8 8, data := w.extractLsb' 0 8 }

/-- A request bundle with every port at zero; the ports an operation does not read are ignored (R88). -/
def Request.zero : Request :=
  { op := 0, chip := 0, raddr := 0, wdata := 0, pos := 0, frameIn := { cmd := 0, data := 0 }, valueIn := 0
    defIn := { address := 0, name := "", bits := #v["", "", "", "", "", "", "", ""] } }

/-- The operation a request bundle selects and the operand ports it reads (R87, R90); codes 6 and 7 are reserved (R92). -/
def decodeRequest (r : Request) : Instr :=
  match r.op.toNat with
  | 0 => .lookup r.raddr
  | 1 => .bitname r.defIn r.pos
  | 2 => .encrd r.chip r.raddr
  | 3 => .encwr r.chip r.raddr r.wdata
  | 4 => .decrsp r.frameIn
  | 5 => .decbits r.valueIn r.defIn
  | _ => .reserved r.op

/-- The wire-level class of an outgoing frame and its fields (R85): bit 7 of the command byte set is a read, clear a write. -/
def decodeFrame (f : Frame) : Instr :=
  if f.cmd.msb then .frameRd (f.cmd.extractLsb' 5 2) (f.cmd.extractLsb' 0 5) f.data
  else .frameWr (f.cmd.extractLsb' 5 2) (f.cmd.extractLsb' 0 5) f.data

/-- Decoding. Every request bundle and every frame is some row of the table: there is no illegal frame (R85), and the codes 6
and 7 are the reserved row. -/
def decode : Presented → Instr
  | .request r => decodeRequest r
  | .frame f => decodeFrame f

/-- The command byte with the discriminator `rw`, two chip address bits and a register address (R85). -/
def commandByte (rw : BitVec 1) (chipLo : BitVec 2) (raddr : BitVec 5) : Byte := rw ++ chipLo ++ raddr

/-- The ports (or the frame) that present an instruction; ports it does not read are zero (R87, R90, R85). -/
def encode : Instr → Presented
  | .lookup raddr => .request { Request.zero with op := 0, raddr := raddr }
  | .bitname d pos => .request { Request.zero with op := 1, defIn := d, pos := pos }
  | .encrd chip raddr => .request { Request.zero with op := 2, chip := chip, raddr := raddr }
  | .encwr chip raddr wdata => .request { Request.zero with op := 3, chip := chip, raddr := raddr, wdata := wdata }
  | .decrsp f => .request { Request.zero with op := 4, frameIn := f }
  | .decbits v d => .request { Request.zero with op := 5, valueIn := v, defIn := d }
  | .reserved op => .request { Request.zero with op := op }
  | .frameRd c r d => .frame { cmd := commandByte 1 c r, data := d }
  | .frameWr c r v => .frame { cmd := commandByte 0 c r, data := v }

/-- The two formats of the opcode table (R97). -/
inductive RowFormat where
  | req
  | frame
  deriving DecidableEq, Repr

/-- A row of the opcode table (R97): its mnemonic, its format, and the match and mask over `op[2:0]` or over the 16-bit frame. -/
structure OpRow where
  mnemonic : String
  format : RowFormat
  matchBits : BitVec 16
  mask : BitVec 16
  deriving DecidableEq, Repr

/-- The nine rows (R97, opcode_table.json). -/
def opTable : List OpRow :=
  [ { mnemonic := "LOOKUP", format := .req, matchBits := 0x0, mask := 0x7 },
    { mnemonic := "BITNAME", format := .req, matchBits := 0x1, mask := 0x7 },
    { mnemonic := "ENCRD", format := .req, matchBits := 0x2, mask := 0x7 },
    { mnemonic := "ENCWR", format := .req, matchBits := 0x3, mask := 0x7 },
    { mnemonic := "DECRSP", format := .req, matchBits := 0x4, mask := 0x7 },
    { mnemonic := "DECBITS", format := .req, matchBits := 0x5, mask := 0x7 },
    { mnemonic := "RESERVED", format := .req, matchBits := 0x6, mask := 0x6 },
    { mnemonic := "FRAME.RD", format := .frame, matchBits := 0x8000, mask := 0x8000 },
    { mnemonic := "FRAME.WR", format := .frame, matchBits := 0x0000, mask := 0x8000 } ]

/-- The mnemonic of an instruction, as the opcode table has it. -/
def Instr.mnemonic : Instr → String
  | .lookup _ => "LOOKUP"
  | .bitname _ _ => "BITNAME"
  | .encrd _ _ => "ENCRD"
  | .encwr _ _ _ => "ENCWR"
  | .decrsp _ => "DECRSP"
  | .decbits _ _ => "DECBITS"
  | .reserved _ => "RESERVED"
  | .frameRd _ _ _ => "FRAME.RD"
  | .frameWr _ _ _ => "FRAME.WR"

/-- The format and the bits a row of the table is matched on: `op` of a request, the 16-bit packing of a frame (R97). -/
def Presented.tableKey : Presented → RowFormat × BitVec 16
  | .request r => (.req, r.op.setWidth 16)
  | .frame f => (.frame, f.toWord)

/-- A row of the table matches what is presented. -/
def OpRow.covers (row : OpRow) (p : Presented) : Bool :=
  row.format == p.tableKey.1 && (p.tableKey.2 &&& row.mask) == row.matchBits

/-- What a word of the opcode table presents. A `REQ` row has the three bits of `op`, one byte when whole; its operand ports are
separate buses (R97) and stand at zero. A `FRAME` row has the sixteen bits of the frame. -/
def tableWord (nbits w : Nat) : Option Presented :=
  if nbits ≤ 8 then some (.request { Request.zero with op := BitVec.ofNat 3 w })
  else if nbits ≤ 16 then some (.frame (Frame.ofWord (BitVec.ofNat 16 w)))
  else none

/-- The instruction the decoder reads from a word of the opcode table; no row is longer than 16 bits. -/
def decodeTableWord (nbits w : Nat) : Option Instr := (tableWord nbits w).map decode

end Sys2Proof
end

