-- ==== Sys2Proof/Machine/Flags.lean ====
section
/-! DEFINITION. The block has no flags and no condition codes (R30). What stands in their place is the `err` port, a result of
the one operation that drives it (R201). -/

namespace Sys2Proof.Machine

/-- The code of an error kind (R201). -/
def errorCode : ErrorKind → BitVec 3
  | .addressOutOfRange => 1
  | .unknownRegister => 2
  | .invalidBitPosition => 3
  | .transportFailure => 4
  | .reservedOp => 7

/-- The `err` port beside a response: 0 with a result, the code of the kind with an error (R89, R201). -/
def errPort : Response → BitVec 3
  | .error k => errorCode k
  | .definition _ => 0
  | .name _ => 0
  | .frame _ => 0
  | .value _ => 0
  | .lanes _ => 0

/-- The 3-bit number in which a caller can carry the outcome of a whole sequence (R201). -/
def outcomeCode : Option ErrorKind → BitVec 3
  | none => 0
  | some k => errorCode k

end Sys2Proof.Machine
end

