-- ==== Sys2Proof/Config.lean ====
section
/-! DEFINITION. The open parameters of the spec (R9, 92_eei_decisions "Open parameters"), as constants without a value: no
proof can see what they are, so a claim holds whatever they are. -/

namespace Sys2Proof

/-- OPEN `REGTAB` (R9, R36): the name and bit names of the table row at each address, before the checks of `WF_TABLE`. Its
`address` field is not used. DESIGN CHOICE, log entry 1. -/
opaque Config.freeRow : Nat → RegisterDef

/-- OPEN: the address of the register named `Status`, which the source does not give (R27, R59). DESIGN CHOICE, log entry 1. -/
opaque Config.freeStatusAddress : BitVec 5

/-- OPEN `Xfer` (R9, R180): the transport's answer to a waiting caller, where none was given from outside. It may depend on
every exchange made before, on how often the oracle was asked, and on the frame sent. DESIGN CHOICE, log entry 4. -/
opaque Config.transport : List Exchange → Nat → Frame → XferAnswer

/-- OPEN `NAME_W` (R9, R23): the bits a hardware `REGTAB` spends on one name. No rule depends on it and nothing here does. -/
opaque Config.nameWidth : Nat

end Sys2Proof
end

