-- ==== Sys2Proof/Machine/Operands.lean ====
section
/-! DEFINITION. Operand forms: the reserved marker, the range checks on the full 8-bit ports, the placing of operands in a
command byte, and the bit a sequence index names. -/

namespace Sys2Proof.Machine

/-- The marker of a reserved bit position (R23): the one-character string hyphen-minus. -/
def reservedMark : Name := "-"

/-- A bit name that denotes a reserved position (R23). -/
def isReserved (n : Name) : Bool := n == reservedMark

/-- `raddr` > 0x1F, on the whole port (R50, R84, R141). -/
def raddrOutOfRange (raddr : Byte) : Bool := decide (0x1F < raddr.toNat)

/-- `chip` > 7, on the whole port (R84, R141). -/
def chipOutOfRange (chip : Byte) : Bool := decide (7 < chip.toNat)

/-- The range check shared by both encoders (R141). -/
def addressOutOfRange (chip raddr : Byte) : Bool := chipOutOfRange chip || raddrOutOfRange raddr

/-- The command byte of a write: `(chip << 5) | raddr` (R82, R143). -/
def writeCommand (chip raddr : Byte) : Byte := (chip <<< 5) ||| raddr

/-- The command byte of a read: `0x80 | (chip << 5) | raddr` (R82, R142). -/
def readCommand (chip raddr : Byte) : Byte := 0x80#8 ||| (chip <<< 5) ||| raddr

/-- The frame `ENCRD` builds (R81, R142). -/
def readFrame (chip raddr : Byte) : Frame := { cmd := readCommand chip raddr, data := 0x00 }

/-- The frame `ENCWR` builds (R81, R143). -/
def writeFrame (chip raddr wdata : Byte) : Frame := { cmd := writeCommand chip raddr, data := wdata }

/-- The boolean of sequence index `p`: `((value >> (7 - p)) & 1) = 1` (R162). -/
def bitAtIndex (value : Byte) (p : Nat) : Bool := ((value >>> (7 - p)) &&& 1) == 1

/-- One lane of `DECBITS` (R162). -/
def laneAt (value : Byte) (d : RegisterDef) (p : Fin 8) : Lane :=
  { name := d.bits[p], bit := bitAtIndex value p, keep := !isReserved d.bits[p] }

/-- The eight lanes of `DECBITS`, index 0 first (R162). -/
def lanesOf (value : Byte) (d : RegisterDef) : Vector Lane 8 :=
  #v[laneAt value d 0, laneAt value d 1, laneAt value d 2, laneAt value d 3,
     laneAt value d 4, laneAt value d 5, laneAt value d 6, laneAt value d 7]

/-- The BitVector of eight lanes: the kept ones, ascending index, as pairs (R162, R163, R164). -/
def bitListOf (l : Vector Lane 8) : BitList :=
  (l.toList.filter Lane.keep).map fun x => (x.name, x.bit)

end Sys2Proof.Machine
end

