-- ==== Sys2Proof/Machine/Table.lean ====
section
/-! DEFINITION. The register table `REGTAB`: its validity predicate `WF_TABLE`, its one-time construction, the row the spec
gives, and the contents it has at reset. -/

namespace Sys2Proof.Machine

/-- The one row the source gives in full (R26). -/
def ledCntrl : RegisterDef :=
  { address := 0x0E
    name := "LEDCntrl"
    bits := #v["LEDEn2B", "RxErrEnB", "LEDEn1B", "RxRdyEnB", "LEDEn2A", "RxErrEnA", "LEDEn1A", "RxRdyEnA"] }

/-- A definition seen as the unchecked data it was constructed from. -/
def rawOf (d : RegisterDef) : RawDef :=
  { address := d.address.toNat, name := d.name, bits := d.bits.toList }

/-- The non-reserved names of a list of bit names are pairwise different (W7). -/
def namesDistinct (bits : List Name) : Bool := decide (bits.filter fun n => !isReserved n).Nodup

/-- (W1) exactly 32 entries (R24). -/
def w1 (t : List RawDef) : Bool := t.length == 32

/-- (W2) every entry has exactly 8 bit names (R24). -/
def w2 (t : List RawDef) : Bool := t.all fun e => e.bits.length == 8

/-- (W3) every address is in 0x00..0x1F (R24). -/
def w3 (t : List RawDef) : Bool := t.all fun e => decide (e.address ≤ 0x1F)

/-- (W4) no two entries have the same address (R24). -/
def w4 (t : List RawDef) : Bool := decide (t.map RawDef.address).Nodup

/-- (W5) every address 0x00..0x1F is the address of some entry (R24). -/
def w5 (t : List RawDef) : Bool := (List.range 32).all fun a => t.any fun e => e.address == a

/-- (W6) the entry at place i has address i, for i in 0..31 (R24). -/
def w6 (t : List RawDef) : Bool := (List.range 32).all fun i => (t[i]?).map RawDef.address == some i

/-- (W7) within one entry the non-reserved bit names are pairwise different (R24). -/
def w7 (t : List RawDef) : Bool := t.all fun e => namesDistinct e.bits

/-- (W8) the entry with address 0x0E is the definition of R26 (R24). -/
def w8 (t : List RawDef) : Bool := t.all fun e => e.address != 0x0E || e == rawOf ledCntrl

/-- `WF_TABLE(T)`: the conjunction of W1 to W8 (R24). -/
def wfTable (t : List RawDef) : Bool := w1 t && w2 t && w3 t && w4 t && w5 t && w6 t && w7 t && w8 t

/-- A table of definitions that satisfies `WF_TABLE`. -/
abbrev WfTable (t : List RegisterDef) : Prop := wfTable (t.map rawOf) = true

/-- The definition of unchecked data; it is used on data that passed W2 and W3, where nothing is cut or filled in. -/
def sealDef (r : RawDef) : RegisterDef :=
  let n := fun p => r.bits.getD p reservedMark
  { address := BitVec.ofNat 5 r.address, name := r.name, bits := #v[n 0, n 1, n 2, n 3, n 4, n 5, n 6, n 7] }

/-- Construction of the table with its one check; a table that fails it yields no block (R25, R241 (1), (2)). -/
def construct (raw : List RawDef) : Option (List RegisterDef) :=
  if wfTable raw then some (raw.map sealDef) else none

/-- `TAB[a]` for an address on the 8-bit port: the entry whose `address` equals it, if there is one (R21, R121). -/
def tableAt (t : List RegisterDef) (raddr : Byte) : Option RegisterDef :=
  t.find? fun e => e.address.toNat == raddr.toNat

/-- Where the register named `Status` stands: anywhere but at 0x0E (R27, R36, R59). -/
def statusAddress : Nat :=
  if Config.freeStatusAddress = 0x0E then 0x0F else Config.freeStatusAddress.toNat

/-- Eight bit names that pass W7: the given ones if they do, eight reserved positions if not (R27: a repeated name is not
reproduced). -/
def passW7 (bits : Vector Name 8) : Vector Name 8 :=
  if namesDistinct bits.toList then bits
  else #v[reservedMark, reservedMark, reservedMark, reservedMark, reservedMark, reservedMark, reservedMark, reservedMark]

/-- The row of the reset table at an address: `LEDCntrl` at 0x0E, the name `Status` at its address, all else free (R26, R36). -/
def resetRow (a : Nat) : RegisterDef :=
  if a = 0x0E then ledCntrl
  else
    { address := BitVec.ofNat 5 a
      name := if a = statusAddress then "Status" else (Config.freeRow a).name
      bits := passW7 (Config.freeRow a).bits }

/-- The contents of `REGTAB` at reset (R35). DESIGN CHOICE, log entry 1: what the spec leaves open in it is free. -/
def resetTable : List RegisterDef := (List.range 32).map resetRow

end Sys2Proof.Machine
end

