-- ==== Sys2Proof/Machine/State.lean ====
section
/-! DEFINITION. The state: the register table, the result ports, the exchange in progress and those made, the transport's given
answers, and the caller's work, variables and outcome. All of it plain data. -/

namespace Sys2Proof.Machine

/-- Everything the spec gives the machine (INVENTORY.md lists it). The block itself holds `regtab` and nothing else (R20);
`resp` is what its result ports show; the other fields belong to the transport and the caller (R3). -/
structure State where
  /-- `REGTAB` (R20, R21). -/
  regtab : List RegisterDef
  /-- What the result ports show (R89): the answer to the operation the caller is holding on the request ports, and `none` while
  it holds none there, since a result is valid only while its operands are held (R250; log entry 2). -/
  resp : Option Response
  /-- The frame of the exchange in progress; the caller is then blocked in `XFER` (R61 (a), R180). -/
  pending : Option Frame
  /-- The variable the exchange in progress will fill (R95). -/
  awaiting : Option Var
  /-- The exchanges made on the bus, first to last (R61 (b)). -/
  bus : List Exchange
  /-- The transport's answers given from outside, next one first (R180). -/
  answers : List XferAnswer
  /-- The model's own counter of the oracle's draws (log entry 4). -/
  draws : Nat
  /-- What is left of the sequence the caller is running (R187). -/
  current : List Line
  /-- The sequences the caller runs after it. -/
  agenda : List (List Line)
  /-- The caller's variables, one entry a variable (R95). -/
  vars : List (Var × Value)
  /-- The error that ended the caller's last sequence, if one did (R201, R208). -/
  outcome : Option ErrorKind
  deriving DecidableEq, Repr

/-- Why a step stops with a fault. -/
inductive Fault where
  /-- Raised by `step` on a line of the caller's program that reads a variable holding nothing of the kind the line needs. The
  spec gives such a program no meaning (R95). Safe: the model stops. -/
  | unboundVariable
  deriving DecidableEq, Repr

/-- Why a step is refused. -/
inductive Refusal where
  /-- Raised by an arm of `exec` whose instruction has no meaning yet. Safe: the model stops. -/
  | notModelled (mnemonic : String)
  /-- Raised by the meanings of `FRAME.RD` and `FRAME.WR` while an exchange is in progress: exchanges of two sequences would
  interleave, and the spec gives no meaning to such a run (R243, U11). Safe: the model stops. -/
  | interleavedExchange
  deriving DecidableEq, Repr

/-- A machine over a table, with the transport's given answers and nothing presented yet (R241). -/
def initialState (table : List RegisterDef) (answers : List XferAnswer) : State :=
  { regtab := table
    resp := none
    pending := none
    awaiting := none
    bus := []
    answers := answers
    draws := 0
    current := []
    agenda := []
    vars := []
    outcome := none }

/-- The machine right after reset (R35, R240): the table's constant contents, nothing presented. DESIGN CHOICE, log entries
1 to 5, for what the spec leaves open. -/
def State.reset : State := initialState resetTable []

end Sys2Proof.Machine
end

