-- ==== Sys2Proof/Machine/Ops.lean ====
section
/-! DEFINITION. The shared operations over the state: driving the result ports, raising an error, starting and answering an
exchange, and the power-up of a machine. -/

namespace Sys2Proof.Machine

/-- What a step or a meaning answers. -/
abbrev Result := Host.Outcome State Fault Refusal

/-- An operation delivers a result: the response bundle shows it, with `err` = 0 (R89). Nothing else changes (R20). -/
def drive (r : Response) (s : State) : State := { s with resp := some r }

/-- Raising an error: `err` is driven with the kind and no result is delivered. It saves no state, changes no state, switches
no mode and transfers control nowhere (R205). There is no return operation: after an error there is nothing to restore (R210). -/
def raise (k : ErrorKind) (s : State) : State := drive (.error k) s

/-- The caller takes `op` and the operands off the request ports: the result they gave is no longer valid (R250). The block is
combinational and keeps nothing of it (R20). -/
def release (s : State) : State := { s with resp := none }

/-- `XFER frame` begins: the caller takes its last operation off the ports and hands the frame to the transport, and blocks until
it answers (R61 (a), R180, R250). While an exchange is in progress another has no meaning (R243). -/
def startExchange (f : Frame) (s : State) : Result :=
  match s.pending with
  | none => .next { release s with pending := some f }
  | some _ => .refused .interleavedExchange

/-- The transport's next answer to the frame sent: the one given from outside, or else the oracle's (R180). -/
def nextAnswer (f : Frame) (s : State) : XferAnswer :=
  match s.answers with
  | a :: _ => a
  | [] => Config.transport s.bus s.draws f

/-- The answer has been drawn. -/
def consumeAnswer (s : State) : State := { s with answers := s.answers.tail, draws := s.draws + 1 }

/-- `dst <- value` in the caller (R95): one entry a variable. -/
def bindVar (x : Var) (v : Value) (s : State) : State :=
  { s with vars := (x, v) :: s.vars.filter fun e => e.1 != x }

/-- `dst <- value` where the line may have no `dst`. -/
def bindDst (dst : Option Var) (v : Value) (s : State) : State :=
  match dst with
  | some x => bindVar x v s
  | none => s

/-- The exchange of frame `f` is over and is on the record; the caller is no longer blocked (R57). -/
def closeExchange (f : Frame) (got : Option Frame) (s : State) : State :=
  { s with pending := none, awaiting := none, bus := s.bus ++ [{ sent := f, got := got }] }

/-- An error ends the caller's sequence: what is left of it does not run, and its outcome is the error (R187, R208). The
agenda stays: that the caller, who "decides what to do" (R205), goes on with its next sequence after any kind of error is a DESIGN
CHOICE, log entry 17. -/
def endSequence (k : ErrorKind) (s : State) : State := { s with current := [], outcome := some k }

/-- The transport's answer reaches the caller (R180): a received frame goes to the variable that waits for it; a failure is
propagated unchanged and ends the sequence (R206); in silence the caller goes on waiting. -/
def deliver (f : Frame) (a : XferAnswer) (s : State) : State :=
  match a with
  | .frame g => bindDst s.awaiting (.frame g) (closeExchange f (some g) s)
  | .failure => endSequence .transportFailure (closeExchange f none s)
  | .silent => s

/-- One step of a blocked caller: the transport is asked once, and no operation is on the block's ports (R61 (a), R250). -/
def answerExchange (f : Frame) (s : State) : State := deliver f (nextAnswer f s) (consumeAnswer (release s))

/-- Power-up (R241): construct and validate the table, then obtain a transport. A table that fails the check yields no machine
(R25). -/
def powerUp (raw : List RawDef) (answers : List XferAnswer) : Option State :=
  (construct raw).map fun t => initialState t answers

end Sys2Proof.Machine
end

