-- ==== Sys2Proof/Machine/Caller.lean ====
section
/-! DEFINITION. The caller: reading its variables, presenting a line of its program, taking the next line, and keeping the
result of an operation. -/

namespace Sys2Proof.Machine

/-- The value of a variable of the caller (R95). -/
def lookupVar (vars : List (Var × Value)) (x : Var) : Option Value :=
  (vars.find? fun e => e.1 == x).map Prod.snd

/-- The definition a variable holds. -/
def defVar (vars : List (Var × Value)) (x : Var) : Option RegisterDef :=
  match lookupVar vars x with
  | some (.definition d) => some d
  | _ => none

/-- The frame a variable holds. -/
def frameVar (vars : List (Var × Value)) (x : Var) : Option Frame :=
  match lookupVar vars x with
  | some (.frame f) => some f
  | _ => none

/-- The byte a variable holds. -/
def byteVar (vars : List (Var × Value)) (x : Var) : Option Byte :=
  match lookupVar vars x with
  | some (.byte v) => some v
  | _ => none

/-- The value of an argument for an 8-bit port; `d.address` is zero-extended to the port (R84, R95). -/
def evalByte (vars : List (Var × Value)) : ByteArg → Option Byte
  | .lit b => some b
  | .var x => byteVar vars x
  | .address x => (defVar vars x).map fun d => d.address.setWidth 8
  | .cmd x => (frameVar vars x).map Frame.cmd
  | .data x => (frameVar vars x).map Frame.data

/-- The value of a frame argument. -/
def evalFrame (vars : List (Var × Value)) : FrameArg → Option Frame
  | .lit f => some f
  | .var x => frameVar vars x

/-- The value of a definition argument; a definition is taken by value (R88). -/
def evalDef (vars : List (Var × Value)) : DefArg → Option RegisterDef
  | .lit d => some d
  | .var x => defVar vars x

/-- What a line of the caller's program presents (R88, R95): a mnemonic drives `op` and the ports its operation reads; `XFER`
hands a frame to the transport. `none`: a variable holds nothing of the kind needed. -/
def presentLine (vars : List (Var × Value)) : LineOp → Option Presented
  | .present p => some p
  | .lookup a => (evalByte vars a).map fun a => encode (.lookup a)
  | .bitname d p => (evalDef vars d).bind fun d => (evalByte vars p).map fun p => encode (.bitname d p)
  | .encrd c r => (evalByte vars c).bind fun c => (evalByte vars r).map fun r => encode (.encrd c r)
  | .encwr c r v =>
    (evalByte vars c).bind fun c => (evalByte vars r).bind fun r => (evalByte vars v).map fun v => encode (.encwr c r v)
  | .decrsp f => (evalFrame vars f).map fun f => encode (.decrsp f)
  | .decbits v d => (evalByte vars v).bind fun v => (evalDef vars d).map fun d => encode (.decbits v d)
  | .xfer f => (evalFrame vars f).map Presented.frame

/-- The first line of the sequences to come; a sequence without a line is over at once. -/
def takeNext : List (List Line) → Option (Line × List Line × List (List Line))
  | [] => none
  | [] :: more => takeNext more
  | (l :: rest) :: more => some (l, rest, more)

/-- The caller's next line: of the sequence it is running, else of the next one that has a line. Answers the line, what is left
of its sequence, and the sequences after it (R187). A list of lines counts as one sequence whatever accesses it mixes, and runs line
by line: DESIGN CHOICE beside R189, log entry 16. -/
def takeLine (current : List Line) (agenda : List (List Line)) : Option (Line × List Line × List (List Line)) :=
  match current with
  | l :: rest => some (l, rest, agenda)
  | [] => takeNext agenda

/-- The block has answered a line's request: a result goes to the line's variable and the sequence goes on; an error ends the
sequence (R187, R205, R208). -/
def keepResponse (dst : Option Var) (r : Response) (s : State) : State :=
  match r with
  | .error k => endSequence k s
  | .definition d => bindDst dst (.definition d) { s with outcome := none }
  | .name n => bindDst dst (.name n) { s with outcome := none }
  | .frame f => bindDst dst (.frame f) { s with outcome := none }
  | .value v => bindDst dst (.byte v) { s with outcome := none }
  | .lanes l => bindDst dst (.bits (bitListOf l)) { s with outcome := none }

/-- What the caller does with the state a meaning left: blocked in an exchange, it notes which variable waits (R180); otherwise
it keeps the response. -/
def settle (dst : Option Var) (s : State) : State :=
  match s.pending with
  | some _ => { s with awaiting := dst, outcome := none }
  | none =>
    match s.resp with
    | some r => keepResponse dst r s
    | none => s

/-- The caller's part after a meaning: it acts on a next state and leaves a stop alone. -/
def finishLine (dst : Option Var) : Result → Result
  | .next s => .next (settle dst s)
  | .fault r => .fault r
  | .refused r => .refused r

end Sys2Proof.Machine
end

