-- ==== Sys2Proof/Machine/CommandEncoder.lean ====
section
/-! DEFINITION. The command encoder: `ENCRD` and `ENCWR`. -/

namespace Sys2Proof.Machine

/-- `ENCRD chip, raddr` (R141, R142). -/
def execEncrd (chip raddr : Byte) (s : State) : Result :=
  .next <|
    if addressOutOfRange chip raddr then raise .addressOutOfRange s
    else drive (.frame (readFrame chip raddr)) s

/-- `ENCWR chip, raddr, wdata` (R141, R143). -/
def execEncwr (chip raddr wdata : Byte) (s : State) : Result :=
  .next <|
    if addressOutOfRange chip raddr then raise .addressOutOfRange s
    else drive (.frame (writeFrame chip raddr wdata)) s

end Sys2Proof.Machine
end

