-- ==== Sys2Proof/Machine/RegisterModel.lean ====
section
/-! DEFINITION. The Register Model: `LOOKUP` and `BITNAME`. -/

namespace Sys2Proof.Machine

/-- `LOOKUP raddr` (R121). -/
def execLookup (raddr : Byte) (s : State) : Result :=
  .next <|
    if raddrOutOfRange raddr then raise .unknownRegister s
    else
      match tableAt s.regtab raddr with
      | none => raise .unknownRegister s
      | some d => drive (.definition d) s

/-- `BITNAME def, pos` (R123); `pos` is a sequence index, 0 naming bit 7. -/
def execBitname (d : RegisterDef) (pos : Byte) (s : State) : Result :=
  .next <|
    if h : pos.toNat < 8 then drive (.name d.bits[pos.toNat]) s
    else raise .invalidBitPosition s

end Sys2Proof.Machine
end

