-- ==== Sys2Proof/Machine/ReservedCode.lean ====
section
/-! DEFINITION. The reserved operation codes 6 and 7. -/

namespace Sys2Proof.Machine

/-- `op` = 6 or 7 raises `ReservedOp`, whatever the operand ports hold (R207, R208). -/
def execReserved (_op : BitVec 3) (s : State) : Result := .next (raise .reservedOp s)

end Sys2Proof.Machine
end

