-- ==== Sys2Proof/Machine/ResponseDecoder.lean ====
section
/-! DEFINITION. The response decoder: `DECRSP` and `DECBITS`. -/

namespace Sys2Proof.Machine

/-- `DECRSP frame` (R161): the second byte of the received frame. -/
def execDecrsp (f : Frame) (s : State) : Result := .next (drive (.value f.data) s)

/-- `DECBITS value, def` (R162). -/
def execDecbits (value : Byte) (d : RegisterDef) (s : State) : Result :=
  .next (drive (.lanes (lanesOf value d)) s)

end Sys2Proof.Machine
end

