-- ==== Sys2Proof/Machine/Wire.lean ====
section
/-! DEFINITION. The two wire-level classes of frames handed to the transport: `XFER` of a read frame and of a write frame. -/

namespace Sys2Proof.Machine

/-- `XFER` of a frame whose discriminator says read (R85, R180). -/
def execFrameRd (chipLo : BitVec 2) (raddr : BitVec 5) (data : Byte) (s : State) : Result :=
  startExchange { cmd := commandByte 1 chipLo raddr, data := data } s

/-- `XFER` of a frame whose discriminator says write (R85, R180). -/
def execFrameWr (chipLo : BitVec 2) (raddr : BitVec 5) (value : Byte) (s : State) : Result :=
  startExchange { cmd := commandByte 0 chipLo raddr, data := value } s

end Sys2Proof.Machine
end

