-- ==== Sys2Proof/Machine/Dispatch.lean ====
section
/-! DEFINITION. The meaning of each instruction, one arm per row of the opcode table. -/

namespace Sys2Proof.Machine

def exec (i : Instr) (s : State) : Host.Outcome State Fault Refusal :=
  match i with
  | .lookup raddr => Sys2Proof.Machine.execLookup raddr s
  | .bitname d pos => Sys2Proof.Machine.execBitname d pos s
  | .encrd chip raddr => Sys2Proof.Machine.execEncrd chip raddr s
  | .encwr chip raddr wdata => Sys2Proof.Machine.execEncwr chip raddr wdata s
  | .decrsp frame => Sys2Proof.Machine.execDecrsp frame s
  | .decbits value d => Sys2Proof.Machine.execDecbits value d s
  | .reserved op => Sys2Proof.Machine.execReserved op s
  | .frameRd chipLo raddr data => Sys2Proof.Machine.execFrameRd chipLo raddr data s
  | .frameWr chipLo raddr value => Sys2Proof.Machine.execFrameWr chipLo raddr value s

end Sys2Proof.Machine
end

