-- ==== Sys2Proof/Machine/Step.lean ====
section
/-! DEFINITION. One step of the machine: the transport is asked once if the caller is blocked; otherwise the caller presents its
next line, and the block (or the transport) acts on it. -/

namespace Sys2Proof.Machine

/-- The caller presents a line, what it presents is decoded and executed, and the caller keeps the result. -/
def runLine (l : Line) (s : State) : Host.Outcome State Fault Refusal :=
  match presentLine s.vars l.op with
  | none => .fault .unboundVariable
  | some p => finishLine l.dst (exec (decode p) s)

/-- One step. A blocked caller runs nothing (R61 (a)); a caller with no line left presents nothing: the
result ports show nothing from then on (R250; log entries 2, 5), and nothing else changes. -/
def step (s : State) : Host.Outcome State Fault Refusal :=
  match s.pending with
  | some f => .next (answerExchange f s)
  | none =>
    match takeLine s.current s.agenda with
    | none => .next (release s)
    | some (l, rest, more) => runLine l { s with current := rest, agenda := more }

/-- `s` with a word of the opcode table as the line the caller presents next, the caller not blocked. The machine fetches
nothing (R29): this stands for a caller that presents it. A word longer than any row changes nothing. -/
def State.withFetchWord (s : State) (nbits w : Nat) : State :=
  match tableWord nbits w with
  | some p =>
    { s with pending := none, awaiting := none, current := { dst := none, op := .present p } :: s.current }
  | none => s

end Sys2Proof.Machine
end

