-- ==== Sys2Proof/Machine/Sequences.lean ====
section
/-! DEFINITION. The named access sequences of the spec: `RDREG`, `WRREG`, `RDBITS`, `DUMP`, and the shorthands `MemRead` and
`MemWrite`. They are the caller's programs, lines of R95. -/

namespace Sys2Proof.Machine

/-- The variable `d` (a definition) of pass `k`. -/
def varD (k : Nat) : Var := { name := "d", idx := k }
/-- The variable `f` (the frame to send) of pass `k`. -/
def varF (k : Nat) : Var := { name := "f", idx := k }
/-- The variable `g` (the received frame) of pass `k`. -/
def varG (k : Nat) : Var := { name := "g", idx := k }
/-- The variable `v` (the value) of pass `k`. -/
def varV (k : Nat) : Var := { name := "v", idx := k }
/-- The variable `bv` (the BitVector) of pass `k`. -/
def varBv (k : Nat) : Var := { name := "bv", idx := k }

/-- `RDREG chip, raddr` (R183); its result is the variable `v`. -/
def rdreg (chip raddr : Byte) (k : Nat) : List Line :=
  [ { dst := some (varF k), op := .encrd (.lit chip) (.lit raddr) },
    { dst := some (varG k), op := .xfer (.var (varF k)) },
    { dst := some (varV k), op := .decrsp (.var (varG k)) } ]

/-- `WRREG chip, raddr, wdata` without its last line `v' <- DECRSP g`, which R184 calls optional: it has no result byte. -/
def wrregSend (chip raddr wdata : Byte) (k : Nat) : List Line :=
  [ { dst := some (varF k), op := .encwr (.lit chip) (.lit raddr) (.lit wdata) },
    { dst := some (varG k), op := .xfer (.var (varF k)) } ]

/-- `WRREG chip, raddr, wdata` (R184); the byte of the response is the variable `v`, and is no read-back. That the sequence of this
name always runs the optional line `v' <- DECRSP g` is the model's choice, DESIGN CHOICE, log entry 15; `wrregSend` is the other. -/
def wrreg (chip raddr wdata : Byte) (k : Nat) : List Line :=
  wrregSend chip raddr wdata k ++ [{ dst := some (varV k), op := .decrsp (.var (varG k)) }]

/-- `RDBITS chip, raddr` (R185); its result is the variables `d`, `v`, `bv`. -/
def rdbits (chip raddr : Byte) (k : Nat) : List Line :=
  [ { dst := some (varD k), op := .lookup (.lit raddr) },
    { dst := some (varF k), op := .encrd (.lit chip) (.address (varD k)) },
    { dst := some (varG k), op := .xfer (.var (varF k)) },
    { dst := some (varV k), op := .decrsp (.var (varG k)) },
    { dst := some (varBv k), op := .decbits (.var (varV k)) (.var (varD k)) } ]

/-- `DUMP chip` (R186): `RDBITS chip, a` for a = 0x00, 0x01, ..., 0x1F in that order; pass `a` keeps its triple in the variables
of number `a`. -/
def dump (chip : Byte) : List Line :=
  (List.range 32).flatMap fun a => rdbits chip (BitVec.ofNat 8 a) a

/-- `MemRead((c, r), 1)` is `RDREG c, r` (R188). -/
def memRead (c r : Byte) (k : Nat) : List Line := rdreg c r k

/-- `MemWrite((c, r), 1, v)` is `WRREG c, r, v` (R188), with its optional last line (log entry 15). -/
def memWrite (c r v : Byte) (k : Nat) : List Line := wrreg c r v k

end Sys2Proof.Machine
end

