-- ==== Sys2Proof/Machine/Structure.lean ====
section
/-! DEFINITION. The structure of the register-address decoder and of the bit-position multiplexer (R122, R124), beside the
functions that say what they compute. -/

namespace Sys2Proof.Machine

/-- Select line `i` of `ADEC`: `sel[i] = (raddr[7:5] = 0) and (raddr[4:0] = i)` (R122). -/
def adecSelect (raddr : Byte) (i : Nat) : Bool :=
  raddr.extractLsb' 5 3 == 0 && raddr.extractLsb' 0 5 == BitVec.ofNat 5 i

/-- The output of `ADEC` over the entries from place `i` on: the entry whose line is 1, and `none` if no line is 1 (R122). -/
def adecFrom (raddr : Byte) : Nat → List RegisterDef → Option RegisterDef
  | _, [] => none
  | i, d :: rest => if adecSelect raddr i then some d else adecFrom raddr (i + 1) rest

/-- `ADEC`: the entry of the table whose select line is 1 (R122). -/
def adecOutput (table : List RegisterDef) (raddr : Byte) : Option RegisterDef := adecFrom raddr 0 table

/-- A 2-to-1 multiplexer. -/
def mux2 {α : Type} (sel : Bool) (one zero : α) : α := if sel then one else zero

/-- `BMUX`: an 8-to-1 multiplexer steered by `pos[2:0]` (R124). -/
def bmux {α : Type} (v : Vector α 8) (pos : Byte) : α :=
  mux2 pos[2]
    (mux2 pos[1] (mux2 pos[0] v[7] v[6]) (mux2 pos[0] v[5] v[4]))
    (mux2 pos[1] (mux2 pos[0] v[3] v[2]) (mux2 pos[0] v[1] v[0]))

/-- `BMUX` is enabled only when `pos[7:3] = 0` (R124). -/
def bmuxEnabled (pos : Byte) : Bool := pos.extractLsb' 3 5 == 0

/-- The lane of index `p` as `RDEC` wires it: name `def_in.bits[p]` with bit `value_in[7 - p]` (R124). -/
def wiredLane (value : Byte) (d : RegisterDef) (p : Fin 8) : Name × Bool := (d.bits[p], value.getLsbD (7 - p))

end Sys2Proof.Machine
end

