-- ==== Sys2Proof/Safety.lean ====
section
/-! DEFINITION. What claims speak of: the invariant of the machine, a run that goes on, and the two assumptions about the
transport that a claim may take as a premise. -/

namespace Sys2Proof

open Sys2Proof.Machine

/-- What holds in every state of a run. -/
structure Inv (s : State) : Prop where
  /-- The table satisfies `WF_TABLE` (R24, R25). -/
  table : WfTable s.regtab
  /-- The block never drives `TransportFailure` (R200, R201). -/
  blockKind : s.resp ≠ some (.error .transportFailure)
  /-- The caller holds one value a variable. -/
  varsOnce : (s.vars.map Prod.fst).Nodup
  /-- A variable waits for a frame only while an exchange is in progress (R180). -/
  waits : s.pending = none → s.awaiting = none
  /-- A sequence whose exchange is in progress has not ended with an error. -/
  running : s.pending ≠ none → s.outcome = none
  /-- A sequence ends with `TransportFailure` only because the last exchange failed (R206). -/
  failure : s.outcome = some .transportFailure → ∃ e, s.bus.getLast? = some e ∧ e.got = none
  /-- The block shows no result while the caller is blocked: nothing is held on its request ports (R61 (a), R250). -/
  quiet : s.pending ≠ none → s.resp = none
  /-- A sequence that ends with any other kind ends with the error the block drives (R208), which shows until the caller, with
  nothing left to present, has taken the operands away (R250). -/
  blamed : ∀ k, s.outcome = some k → k ≠ .transportFailure →
    s.resp = some (.error k) ∨ s.resp = none ∧ takeLine s.current s.agenda = none
  /-- Nothing of a sequence is left after its error (R187). -/
  ended : s.outcome ≠ none → s.current = []

/-- The machine goes on: the step is neither a fault nor a refusal. -/
def GoesOn (s : State) : Prop := ∃ t, Machine.step s = .next t

/-- `n` steps one after another, stopping at the first fault or refusal. -/
def runSteps : Nat → State → Result
  | 0, s => .next s
  | n + 1, s =>
    match Machine.step s with
    | .next t => runSteps n t
    | .fault r => .fault r
    | .refused r => .refused r

/-- Assumption T-ECHO (R182) about one answer to the write frame `f`: the second byte of a received frame is the byte written. A
premise a claim may name, never a rule of the block. -/
def TEcho (f : Frame) (a : XferAnswer) : Prop := ∀ g, a = .frame g → g.data = f.data

/-- Assumption T-CUR (R181) about one answer to a read frame: the second byte of a received frame is the register's content. A
premise a claim may name, never a rule of the block; the content belongs to a model of the peripheral. -/
def TCur (content : Byte) (a : XferAnswer) : Prop := ∀ g, a = .frame g → g.data = content

/-- The pairs of name and bit in index order without any left out: what the BitVector is cut from (R165 (L1)). -/
def namedBits (value : Byte) (d : RegisterDef) : BitList :=
  [(d.bits[0], value.getLsbD 7), (d.bits[1], value.getLsbD 6), (d.bits[2], value.getLsbD 5), (d.bits[3], value.getLsbD 4),
   (d.bits[4], value.getLsbD 3), (d.bits[5], value.getLsbD 2), (d.bits[6], value.getLsbD 1), (d.bits[7], value.getLsbD 0)]

/-- The BitVector of a value against a definition (R162, R164): the named bits without the reserved positions. -/
def bitVectorOf (value : Byte) (d : RegisterDef) : BitList := (namedBits value d).filter fun e => e.1 != "-"

end Sys2Proof
end

