-- ==== Sys2Proof/Certificates/Slice0/Obligations.lean ====
section
/-! DEFINITION. The statements for the provers. -/

open Sys2Proof Sys2Proof.Machine

/-! ### Encoding -/

/-- Decoding the ports (or the frame) that present a well-formed instruction gives the instruction back, every operand whole. The
codes of the operations are the spec's own (R90, 92_eei_decisions D4). -/
def Obligations.DecodeOfEncode : Prop :=
  ∀ i : Instr, i.wf = true → decode (encode i) = i

/-- Every frame is the encoding of what it decodes to, and its 16-bit packing loses nothing: the command byte is the upper byte
(R53, R80; the packing is the spec's own, 92_eei_decisions D8). -/
def Obligations.EncodeOfDecodedFrame : Prop :=
  ∀ f : Frame,
    encode (decode (.frame f)) = .frame f ∧
    f.toWord.toNat = 256 * f.cmd.toNat + f.data.toNat ∧
    Frame.ofWord f.toWord = f ∧
    decodeTableWord 16 f.toWord.toNat = some (decode (.frame f))

/-- Bit 7 of the command byte decides the class of a frame; bits 6:5 are the chip address's low bits, bits 4:0 the register
address, and the second byte the data (R85). -/
def Obligations.DiscriminatorClassifiesFrames : Prop :=
  ∀ f : Frame,
    (0x80 ≤ f.cmd.toNat →
      ∃ c r, decode (.frame f) = .frameRd c r f.data ∧ c.toNat = f.cmd.toNat / 32 % 4 ∧ r.toNat = f.cmd.toNat % 32) ∧
    (f.cmd.toNat < 0x80 →
      ∃ c r, decode (.frame f) = .frameWr c r f.data ∧ c.toNat = f.cmd.toNat / 32 ∧ r.toNat = f.cmd.toNat % 32)

/-- `op` 0 to 5 select the six operations with the ports each reads, and `op` 6 and 7 are reserved. The numbers are the spec's own
choice (R90, R92; 92_eei_decisions D4, D5). -/
def Obligations.OpSelectsTheOperation : Prop :=
  ∀ r : Request,
    (r.op = 0 → decode (.request r) = .lookup r.raddr) ∧
    (r.op = 1 → decode (.request r) = .bitname r.defIn r.pos) ∧
    (r.op = 2 → decode (.request r) = .encrd r.chip r.raddr) ∧
    (r.op = 3 → decode (.request r) = .encwr r.chip r.raddr r.wdata) ∧
    (r.op = 4 → decode (.request r) = .decrsp r.frameIn) ∧
    (r.op = 5 → decode (.request r) = .decbits r.valueIn r.defIn) ∧
    (r.op = 6 ∨ r.op = 7 → decode (.request r) = .reserved r.op ∧ (decode (.request r)).wf = true)

/-- Ports an operation does not read are ignored: any value on them gives the same instruction (R88; 92_eei_decisions D24). -/
def Obligations.UnreadPortsAreIgnored : Prop :=
  ∀ (r : Request) (chip raddr wdata pos valueIn : Byte) (frameIn : Frame) (defIn : RegisterDef),
    (r.op = 0 → decode (.request { r with chip, wdata, pos, valueIn, frameIn, defIn }) = decode (.request r)) ∧
    (r.op = 1 → decode (.request { r with chip, raddr, wdata, valueIn, frameIn }) = decode (.request r)) ∧
    (r.op = 2 → decode (.request { r with wdata, pos, valueIn, frameIn, defIn }) = decode (.request r)) ∧
    (r.op = 3 → decode (.request { r with pos, valueIn, frameIn, defIn }) = decode (.request r)) ∧
    (r.op = 4 → decode (.request { r with chip, raddr, wdata, pos, valueIn, defIn }) = decode (.request r)) ∧
    (r.op = 5 → decode (.request { r with chip, raddr, wdata, pos, frameIn }) = decode (.request r)) ∧
    (6 ≤ r.op.toNat →
      decode (.request { r with chip, raddr, wdata, pos, valueIn, frameIn, defIn }) = decode (.request r))

/-- Whatever is presented, exactly one row of the opcode table matches it, and it is the row of the instruction decoded (R97). -/
def Obligations.ExactlyOneRowMatches : Prop :=
  ∀ p : Presented, (opTable.filter fun row => row.covers p).map OpRow.mnemonic = [(decode p).mnemonic]

/-- Words written out from the spec's encodings decode to what they stand for: `op` 2 with chip 1 and address 0x0F; the frames
`8E 00`, `2F 05`, `AF 05` (R82, R85, R90; 95_test_vectors S1, S3, E-WR-8). -/
def Obligations.SpecWordsDecode : Prop :=
  decode (.request { Request.zero with op := 0b010, chip := 0x01, raddr := 0x0F, wdata := 0xFF }) = .encrd 0x01 0x0F ∧
  decodeTableWord 16 0b1000111000000000 = some (.frameRd 0b00 0b01110 0x00) ∧
  decodeTableWord 16 0b0010111100000101 = some (.frameWr 0b01 0b01111 0x05) ∧
  decodeTableWord 16 0b1010111100000101 = some (.frameRd 0b01 0b01111 0x05)

/-! ### The register table -/

/-- `WF_TABLE` is the conjunction of W1 to W8 (R24). -/
def Obligations.WfTableIsW1ToW8 : Prop :=
  ∀ t : List RawDef, wfTable t = true ↔
    t.length = 32 ∧
    (∀ e ∈ t, e.bits.length = 8) ∧
    (∀ e ∈ t, e.address ≤ 0x1F) ∧
    (t.Pairwise fun e e' => e.address ≠ e'.address) ∧
    (∀ a ≤ 0x1F, ∃ e ∈ t, e.address = a) ∧
    (∀ i (h : i < t.length), t[i].address = i) ∧
    (∀ e ∈ t, e.bits.Pairwise fun n n' => n = "-" ∨ n' = "-" ∨ n ≠ n') ∧
    (∀ e ∈ t, e.address = 0x0E →
      e.name = "LEDCntrl" ∧
      e.bits = ["LEDEn2B", "RxErrEnB", "LEDEn1B", "RxRdyEnB", "LEDEn2A", "RxErrEnA", "LEDEn1A", "RxRdyEnA"])

/-- W1, W3 and W4 together imply W5: 32 distinct addresses among 32 possible ones (R24). -/
def Obligations.DistinctAddressesFillTheTable : Prop :=
  ∀ t : List RawDef, w1 t = true → w3 t = true → w4 t = true → w5 t = true

/-- The table is constructed exactly when it satisfies `WF_TABLE`, and then nothing of it is lost; a table that fails the check
yields no block, whatever the transport (R25, R241; 92_eei_decisions D23). -/
def Obligations.OnlyValidTablesYieldABlock : Prop :=
  ∀ (raw : List RawDef) (answers : List XferAnswer),
    (wfTable raw = true → ∃ s, powerUp raw answers = some s ∧ s.regtab.map rawOf = raw ∧ s.answers = answers) ∧
    (wfTable raw = false → powerUp raw answers = none)

/-- A table with an entry that repeats a non-reserved bit name, as the source's `Status` row does, is refused (R27, R246;
92_eei_decisions D12). -/
def Obligations.RepeatedBitNameIsRefused : Prop :=
  ∀ (raw : List RawDef) (e : RawDef) (i j : Nat) (n : Name) (answers : List XferAnswer),
    e ∈ raw → i < j → e.bits[i]? = some n → e.bits[j]? = some n → n ≠ "-" → powerUp raw answers = none

/-- The table at reset has a register named `Status`, not at 0x0E. That the row exists is DEDUCED from R27 and R59 and unsafe, and
that the rest of the reset table is free is the model's choice: both log entry 1. -/
def Obligations.ResetTableHasStatus : Prop :=
  ∃ d ∈ State.reset.regtab, d.name = "Status" ∧ d.address ≠ 0x0E

/-! ### What each operation answers

Each conclusion is the next state whole, so it is the operation's completion and its frame too: nothing but `resp` (or `pending`)
changes. -/

/-- `LOOKUP` (R121): the entry at the address; `UnknownRegister` above 0x1F or where there is no entry, never reduced to five
bits; under `WF_TABLE` every address 0x00..0x1F answers, with the entry at place `raddr`. -/
def Obligations.LookupAnswersTheEntry : Prop :=
  ∀ (s : State) (raddr : Byte),
    (0x1F < raddr.toNat → exec (.lookup raddr) s = .next { s with resp := some (.error .unknownRegister) }) ∧
    ((∀ e ∈ s.regtab, e.address.toNat ≠ raddr.toNat) →
      exec (.lookup raddr) s = .next { s with resp := some (.error .unknownRegister) }) ∧
    (WfTable s.regtab → raddr.toNat ≤ 0x1F →
      ∃ d, s.regtab[raddr.toNat]? = some d ∧ d.address.toNat = raddr.toNat ∧
        (∀ e ∈ s.regtab, e.address.toNat = raddr.toNat → e = d) ∧
        exec (.lookup raddr) s = .next { s with resp := some (.definition d) })

/-- The one row the source gives, with the names in listing order and at 0x0E, which are the spec's own readings (R26;
92_eei_decisions D20, D21): every valid table answers it at 0x0E. -/
def Obligations.LedCntrlIsAnsweredAt0x0E : Prop :=
  ∀ s : State, WfTable s.regtab →
    exec (.lookup 0x0E) s = .next { s with resp := some (.definition
      { address := 0x0E, name := "LEDCntrl"
        bits := #v["LEDEn2B", "RxErrEnB", "LEDEn1B", "RxRdyEnB", "LEDEn2A", "RxErrEnA", "LEDEn1A", "RxRdyEnA"] }) }

/-- `BITNAME` (R123): the name at a sequence index, the reserved marker included, for 0 to 7; `InvalidBitPosition` from 8 to 255,
never reduced modulo 8. That `pos` is a sequence index is the spec's own choice (92_eei_decisions D13). -/
def Obligations.BitnameAnswersTheName : Prop :=
  ∀ (s : State) (d : RegisterDef) (pos : Byte),
    (∀ h : pos.toNat < 8, exec (.bitname d pos) s = .next { s with resp := some (.name d.bits[pos.toNat]) }) ∧
    (7 < pos.toNat → exec (.bitname d pos) s = .next { s with resp := some (.error .invalidBitPosition) })

/-- `ENCRD` (R142 with the range check R141): the read frame, whose command byte is `{1, chip[1:0], raddr[4:0]}`, or
`AddressOutOfRange`; chips k and k + 4 give the same frame, and every command byte 0x80..0xFF is some read's. -/
def Obligations.EncrdBuildsTheReadFrame : Prop :=
  (∀ (s : State) (chip raddr : Byte),
    (7 < chip.toNat ∨ 0x1F < raddr.toNat →
      exec (.encrd chip raddr) s = .next { s with resp := some (.error .addressOutOfRange) }) ∧
    (chip.toNat ≤ 7 → raddr.toNat ≤ 0x1F →
      exec (.encrd chip raddr) s =
        .next { s with resp := some (.frame { cmd := 0x80#8 ||| (chip <<< 5) ||| raddr, data := 0x00 }) } ∧
      (0x80#8 ||| (chip <<< 5) ||| raddr).toNat = 128 + 32 * (chip.toNat % 4) + raddr.toNat ∧
      (4 ≤ chip.toNat → exec (.encrd chip raddr) s = exec (.encrd (chip - 4) raddr) s))) ∧
  (∀ (s : State) (cmd : Byte), 0x80 ≤ cmd.toNat →
    ∃ chip raddr, exec (.encrd chip raddr) s = .next { s with resp := some (.frame { cmd := cmd, data := 0x00 }) })

/-- `ENCWR` (R143 with the range check R141): the write frame, whose command byte is `{chip[2:0], raddr[4:0]}` and whose data is
the value unchanged, or `AddressOutOfRange`; bit 7 is clear for chips 0..3 only, and then the read's command byte differs in it
alone; for chips 4..7 the command byte is that of the read; every command byte is some write's. That the formula stands, against
the source's remark "(bit 7 clear)", where the two differ is the spec's own decision (92_eei_decisions D16, 90_conflicts C1). -/
def Obligations.EncwrBuildsTheWriteFrame : Prop :=
  (∀ (s : State) (chip raddr wdata : Byte),
    (7 < chip.toNat ∨ 0x1F < raddr.toNat →
      exec (.encwr chip raddr wdata) s = .next { s with resp := some (.error .addressOutOfRange) }) ∧
    (chip.toNat ≤ 7 → raddr.toNat ≤ 0x1F →
      exec (.encwr chip raddr wdata) s =
        .next { s with resp := some (.frame { cmd := (chip <<< 5) ||| raddr, data := wdata }) } ∧
      ((chip <<< 5) ||| raddr).toNat = 32 * chip.toNat + raddr.toNat ∧
      (chip.toNat ≤ 3 →
        exec (.encrd chip raddr) s =
          .next { s with resp := some (.frame { cmd := ((chip <<< 5) ||| raddr) ||| 0x80#8, data := 0x00 }) } ∧
        ((chip <<< 5) ||| raddr).getLsbD 7 = false) ∧
      (4 ≤ chip.toNat →
        exec (.encrd chip raddr) s =
          .next { s with resp := some (.frame { cmd := (chip <<< 5) ||| raddr, data := 0x00 }) } ∧
        ((chip <<< 5) ||| raddr).getLsbD 7 = true))) ∧
  (∀ (s : State) (cmd wdata : Byte),
    ∃ chip raddr, exec (.encwr chip raddr wdata) s = .next { s with resp := some (.frame { cmd := cmd, data := wdata }) })

/-- Which requests produce which command byte (R85): with bit 7 clear, one write and no read; with bit 7 set, the reads of chips
k and k + 4 and the write of chip k + 4, where k is bits 6:5. -/
def Obligations.ProducersOfACommandByte : Prop :=
  ∀ (s : State) (cmd v chip raddr : Byte),
    (cmd.toNat < 0x80 →
      (exec (.encwr chip raddr v) s = .next { s with resp := some (.frame { cmd := cmd, data := v }) } ↔
        chip.toNat = cmd.toNat / 32 ∧ raddr.toNat = cmd.toNat % 32) ∧
      ∀ x, exec (.encrd chip raddr) s ≠ .next { s with resp := some (.frame { cmd := cmd, data := x }) }) ∧
    (0x80 ≤ cmd.toNat →
      (exec (.encwr chip raddr v) s = .next { s with resp := some (.frame { cmd := cmd, data := v }) } ↔
        chip.toNat = cmd.toNat / 32 % 4 + 4 ∧ raddr.toNat = cmd.toNat % 32) ∧
      (exec (.encrd chip raddr) s = .next { s with resp := some (.frame { cmd := cmd, data := 0x00 }) } ↔
        (chip.toNat = cmd.toNat / 32 % 4 ∨ chip.toNat = cmd.toNat / 32 % 4 + 4) ∧ raddr.toNat = cmd.toNat % 32))

/-- `ENCWR` is one-to-one on its legal operands (R144 (L7)): equal frames come from equal chip, register and value. -/
def Obligations.EncwrIsOneToOne : Prop :=
  ∀ (s : State) (c r v c' r' v' : Byte) (f : Frame),
    exec (.encwr c r v) s = .next { s with resp := some (.frame f) } →
    exec (.encwr c' r' v') s = .next { s with resp := some (.frame f) } → c = c' ∧ r = r' ∧ v = v'

/-- `DECRSP` (R161): the second byte, whatever the first; it never fails. -/
def Obligations.DecrspTakesTheSecondByte : Prop :=
  ∀ (s : State) (first second : Byte),
    exec (.decrsp { cmd := first, data := second }) s = .next { s with resp := some (.value second) }

/-- `DECBITS` (R162, R164): lane p holds `def.bits[p]` and bit 7 - p, kept unless the name is the marker; the BitVector is the
kept pairs in index order, none for eight markers and eight where there is no marker. -/
def Obligations.DecbitsSplitsTheByte : Prop :=
  ∀ (s : State) (v : Byte) (d : RegisterDef), ∃ l : Vector Lane 8,
    exec (.decbits v d) s = .next { s with resp := some (.lanes l) } ∧
    (∀ p : Fin 8, l[p] = { name := d.bits[p], bit := v.getLsbD (7 - p), keep := d.bits[p] != "-" } ∧
      v.getLsbD (7 - p) = decide ((v >>> (7 - p.val)) &&& 1 = 1)) ∧
    bitListOf l = bitVectorOf v d ∧
    ((∀ p : Fin 8, d.bits[p] = "-") → bitListOf l = []) ∧
    ((∀ p : Fin 8, d.bits[p] ≠ "-") → (bitListOf l).length = 8)

/-- `op` 6 and 7 raise `ReservedOp` whatever the other ports hold, with no result (R207, R208; the kind and the codes are the
spec's own, 92_eei_decisions D5). That the model goes on with this error, where R92 and D5 say that a model refuses the code, is
the model's choice, DEDUCED, log entry 10. -/
def Obligations.ReservedCodesRaiseReservedOp : Prop :=
  ∀ (s : State) (r : Request), r.op = 6 ∨ r.op = 7 →
    exec (decode (.request r)) s = .next { s with resp := some (.error .reservedOp) }

/-- `XFER` (R85, R180): a frame handed to the transport goes out whole and the caller blocks; it holds no operation on the block
then, so no result shows (R250; log entry 2), and nothing else changes. While an exchange is in progress another has no meaning and
is refused by name (R243; log entries 7, 8). -/
def Obligations.FramesAreHandedToTheTransport : Prop :=
  ∀ (s : State) (c : BitVec 2) (r : BitVec 5) (d : Byte) (f : Frame),
    (s.pending = none →
      exec (.frameRd c r d) s = .next { s with resp := none, pending := some { cmd := 1#1 ++ c ++ r, data := d } } ∧
      exec (.frameWr c r d) s = .next { s with resp := none, pending := some { cmd := 0#1 ++ c ++ r, data := d } } ∧
      exec (decode (.frame f)) s = .next { s with resp := none, pending := some f }) ∧
    (s.pending ≠ none →
      exec (.frameRd c r d) s = .refused .interleavedExchange ∧ exec (.frameWr c r d) s = .refused .interleavedExchange)

/-! ### Laws of the operations -/

/-- With no reserved position, the byte is the sum of the weights of the true lanes: `DECBITS` loses nothing (R165 (L2)). -/
def Obligations.DecbitsLosesNothing : Prop :=
  ∀ (s : State) (v : Byte) (d : RegisterDef), (∀ p : Fin 8, d.bits[p] ≠ "-") →
    ∃ l : Vector Lane 8, exec (.decbits v d) s = .next { s with resp := some (.lanes l) } ∧
      v.toNat = ((List.finRange 8).map fun p => if l[p].bit then 2 ^ (7 - p.val) else 0).sum

/-- Two bytes give the same BitVector exactly when they agree on every non-reserved bit (R165 (L3)). -/
def Obligations.ReservedBitsDoNotShow : Prop :=
  ∀ (s : State) (v v' : Byte) (d : RegisterDef), ∃ l l' : Vector Lane 8,
    exec (.decbits v d) s = .next { s with resp := some (.lanes l) } ∧
    exec (.decbits v' d) s = .next { s with resp := some (.lanes l') } ∧
    (bitListOf l = bitListOf l' ↔ ∀ p : Fin 8, d.bits[p] ≠ "-" → v.getLsbD (7 - p) = v'.getLsbD (7 - p))

/-- The name that `DECBITS` pairs at index p is `BITNAME`'s answer at p; `LOOKUP` answers an entry with its own address (R125). -/
def Obligations.RegisterModelLaws : Prop :=
  ∀ (s : State) (v : Byte) (d : RegisterDef) (p : Fin 8) (a : Byte),
    (∃ l : Vector Lane 8, exec (.decbits v d) s = .next { s with resp := some (.lanes l) } ∧
      exec (.bitname d (BitVec.ofNat 8 p)) s = .next { s with resp := some (.name l[p].name) }) ∧
    (WfTable s.regtab → a.toNat ≤ 0x1F →
      ∃ e, exec (.lookup a) s = .next { s with resp := some (.definition e) } ∧ e.address.toNat = a.toNat)

/-- The source's property of write and decode, with its hidden premise T-ECHO named (R165 (L5), R182; 90_conflicts C3): if the
answer to the write frame carries the byte written, decoding it against the register's definition shows the bits written. -/
def Obligations.WriteEchoDecodesToTheWrittenBits : Prop :=
  ∀ (s : State) (c r v : Byte) (g : Frame), WfTable s.regtab → c.toNat ≤ 7 → r.toNat ≤ 0x1F →
    ∃ f d, exec (.encwr c r v) s = .next { s with resp := some (.frame f) } ∧
      exec (.lookup r) s = .next { s with resp := some (.definition d) } ∧ s.regtab[r.toNat]? = some d ∧
      (TEcho f (.frame g) → ∃ l : Vector Lane 8,
        exec (.decrsp g) s = .next { s with resp := some (.value v) } ∧
        exec (.decbits v d) s = .next { s with resp := some (.lanes l) } ∧ bitListOf l = bitVectorOf v d)

/-! ### Errors -/

/-- Which operations raise which kind, exactly when: `AddressOutOfRange` the encoders, `UnknownRegister` `LOOKUP`,
`InvalidBitPosition` `BITNAME`, `ReservedOp` the codes 6 and 7, and by nothing else; no operation of the block raises
`TransportFailure`; the error stands alone and nothing else changes (R200, R202, R203, R204, R207; that an error carries nothing and
the kind `ReservedOp` are the spec's own, 92_eei_decisions D7, D5, and that the model goes on with `ReservedOp` is log entry 10). -/
def Obligations.EachKindHasItsOwnRaisers : Prop :=
  ∀ (i : Instr) (s : State), WfTable s.regtab → i.isRequest = true →
    (exec i s = .next { s with resp := some (.error .addressOutOfRange) } ↔
      ∃ c r, (7 < c.toNat ∨ 0x1F < r.toNat) ∧ (i = .encrd c r ∨ ∃ v, i = .encwr c r v)) ∧
    (exec i s = .next { s with resp := some (.error .unknownRegister) } ↔ ∃ r, 0x1F < r.toNat ∧ i = .lookup r) ∧
    (exec i s = .next { s with resp := some (.error .invalidBitPosition) } ↔ ∃ d p, 7 < p.toNat ∧ i = .bitname d p) ∧
    (exec i s = .next { s with resp := some (.error .reservedOp) } ↔ ∃ op, i = .reserved op) ∧
    (∀ q : Request, exec (decode (.request q)) s = .next { s with resp := some (.error .reservedOp) } ↔ q.op = 6 ∨ q.op = 7) ∧
    ∀ t, exec i s = .next t → t.resp ≠ some (.error .transportFailure)

/-- The codes of the kinds, and what the block drives: 0 exactly with a result, never 4, 5 or 6. The numbers are the spec's own
choice (R201; 92_eei_decisions D6). -/
def Obligations.BlockNeverDrivesTransportFailure : Prop :=
  (errorCode .addressOutOfRange = 1 ∧ errorCode .unknownRegister = 2 ∧ errorCode .invalidBitPosition = 3 ∧
    errorCode .transportFailure = 4 ∧ errorCode .reservedOp = 7) ∧
  ∀ (i : Instr) (s : State), i.isRequest = true →
    ∃ r, exec i s = .next { s with resp := some r } ∧
      (errPort r = 0 ↔ ∀ k, r ≠ .error k) ∧ errPort r ∉ [4, 5, 6]

/-- No memory of an error (R210): an operation after an error answers as if there had been none. -/
def Obligations.NoMemoryOfAnError : Prop :=
  ∀ (i : Instr) (s : State) (k : ErrorKind), i.isRequest = true →
    exec i { s with resp := some (.error k) } = exec i s

/-! ### The whole block -/

/-- The encoders and the decoders read nothing but their operands: one response for every state; the encoders never raise
`UnknownRegister`, the decoders never fail (R140, R160). -/
def Obligations.CodecReadsOnlyItsOperands : Prop :=
  (∀ c r : Byte, ∃ x, x ≠ Response.error .unknownRegister ∧
    ∀ s : State, exec (.encrd c r) s = .next { s with resp := some x }) ∧
  (∀ c r v : Byte, ∃ x, x ≠ Response.error .unknownRegister ∧
    ∀ s : State, exec (.encwr c r v) s = .next { s with resp := some x }) ∧
  (∀ f : Frame, ∃ x, (∀ k, x ≠ Response.error k) ∧ ∀ s : State, exec (.decrsp f) s = .next { s with resp := some x }) ∧
  (∀ (v : Byte) (d : RegisterDef), ∃ x, (∀ k, x ≠ Response.error k) ∧
    ∀ s : State, exec (.decbits v d) s = .next { s with resp := some x })

/-- Every operation of the block is a pure function of its operands and of `REGTAB`: two states with the same table give the same
response, and each operation changes the response and nothing else (R20). -/
def Obligations.ResponseDependsOnOperandsAndTable : Prop :=
  ∀ (i : Instr) (s s' : State), i.isRequest = true → s.regtab = s'.regtab →
    ∃ r, exec i s = .next { s with resp := some r } ∧ exec i s' = .next { s' with resp := some r }

/-- `REGTAB` is never mutated: no operation, no exchange and no other event of a step changes it, or the answer of a `LOOKUP`
(R64). -/
def Obligations.TableIsNeverWritten : Prop :=
  (∀ s t : State, step s = .next t → t.regtab = s.regtab) ∧
  (∀ (i : Instr) (s t : State), exec i s = .next t → t.regtab = s.regtab) ∧
  (∀ (s t : State) (a : Byte), step s = .next t →
    ∃ r, exec (.lookup a) s = .next { s with resp := some r } ∧ exec (.lookup a) t = .next { t with resp := some r })

/-! ### The structure of the decoder and of the multiplexer -/

/-- `ADEC` (R122): at most one select line is 1, and the entry it selects is what `LOOKUP` answers; no line is 1 exactly for an
address above 0x1F. -/
def Obligations.AdecRefinesLookup : Prop :=
  (∀ (raddr : Byte) (i j : Nat), i < 32 → j < 32 → adecSelect raddr i = true → adecSelect raddr j = true → i = j) ∧
  (∀ (s : State) (raddr : Byte), WfTable s.regtab →
    (∀ d, adecOutput s.regtab raddr = some d ↔
      exec (.lookup raddr) s = .next { s with resp := some (.definition d) }) ∧
    (adecOutput s.regtab raddr = none ↔ 0x1F < raddr.toNat))

/-- `BMUX` (R124): it is enabled exactly for the indices `BITNAME` accepts and then selects `BITNAME`'s answer; wired eight times,
it pairs the names and bits of `DECBITS`. -/
def Obligations.BmuxRefinesBitname : Prop :=
  ∀ (s : State) (d : RegisterDef) (pos v : Byte),
    (bmuxEnabled pos = true →
      exec (.bitname d pos) s = .next { s with resp := some (.name (bmux d.bits pos)) }) ∧
    (bmuxEnabled pos = false → exec (.bitname d pos) s = .next { s with resp := some (.error .invalidBitPosition) }) ∧
    (∃ l : Vector Lane 8, exec (.decbits v d) s = .next { s with resp := some (.lanes l) } ∧
      ∀ p : Fin 8, (l[p].name, l[p].bit) = wiredLane v d p)

/-! ### The step: caller, block and transport -/

/-- A step runs the decoded instruction: with no exchange in progress, the caller's next line is presented, what it presents is
decoded, and the step is `exec` of it, after which the caller keeps the result. That the caller runs lines is the model's
form of it, log entry 5. -/
def Obligations.StepRunsTheDecodedInstruction : Prop :=
  ∀ (s : State) (l : Line) (rest : List Line) (more : List (List Line)) (p : Presented),
    s.pending = none → takeLine s.current s.agenda = some (l, rest, more) → presentLine s.vars l.op = some p →
    (decode p).wf = true ∧
    step s = finishLine l.dst (exec (decode p) { s with current := rest, agenda := more })

/-- What the caller keeps: a result goes to the line's variable, the BitVector of `DECBITS` included, and the sequence goes on; an
error ends the sequence and is its outcome (R187, R205); a caller that has sent a frame waits, with the line's variable, if it names
one, to be filled. The fields that hold this, and that the agenda stays after an error,
are the model's choice, log entries 3, 5 and 17. -/
def Obligations.CallerKeepsTheResponse : Prop :=
  ∀ (s : State) (dst : Option Var) (x : Var) (r : Response) (v : Value) (k : ErrorKind) (f : Frame),
    (s.pending = none → s.resp = some (.error k) →
      finishLine dst (.next s) = .next { s with current := [], outcome := some k }) ∧
    (s.pending = none → s.resp = some r →
      (∃ d, r = .definition d ∧ v = .definition d) ∨ (∃ n, r = .name n ∧ v = .name n) ∨
        (∃ f, r = .frame f ∧ v = .frame f) ∨ (∃ b, r = .value b ∧ v = .byte b) ∨
        (∃ l, r = .lanes l ∧ v = .bits (bitListOf l)) →
      finishLine (some x) (.next s) =
        .next { s with outcome := none, vars := (x, v) :: s.vars.filter fun e => e.1 != x } ∧
      finishLine none (.next s) = .next { s with outcome := none }) ∧
    (s.pending = some f →
      finishLine dst (.next s) = .next { s with awaiting := dst, outcome := none })

/-- A word of the opcode table placed as the caller's next line is decoded and executed by the very next step, in the state as it
was but for the caller being unblocked. That a caller presents it is how the model is driven, log entry 5. -/
def Obligations.PlacedWordRunsNext : Prop :=
  ∀ (s : State) (nbits w : Nat) (i : Instr), decodeTableWord nbits w = some i →
    step (s.withFetchWord nbits w) = finishLine none (exec i { s with pending := none, awaiting := none })

/-- The transport's answer (R180): a frame reaches the waiting variable and is on record; a failure is on record, ends the sequence
and is its outcome, and nothing is decoded (R206); in silence the caller waits on. With no answer given from outside, the step is
the one for some answer, the oracle's (log entry 4). The caller holds no operation on the block meanwhile, so no result shows
(R250; log entry 2); after a failure its agenda stays (log entry 17). -/
def Obligations.TransportAnswers : Prop :=
  ∀ (s : State) (f g : Frame) (as : List XferAnswer), s.pending = some f →
    (s.answers = .frame g :: as →
      step s = .next { s with
        resp := none, pending := none, awaiting := none, bus := s.bus ++ [{ sent := f, got := some g }], answers := as, draws := s.draws + 1
        vars := match s.awaiting with
          | some x => (x, .frame g) :: s.vars.filter fun e => e.1 != x
          | none => s.vars }) ∧
    (s.answers = .failure :: as →
      step s = .next { s with
        resp := none, pending := none, awaiting := none, bus := s.bus ++ [{ sent := f, got := none }], answers := as, draws := s.draws + 1
        current := [], outcome := some .transportFailure }) ∧
    (s.answers = .silent :: as → step s = .next { s with resp := none, answers := as, draws := s.draws + 1 }) ∧
    (s.answers = [] → ∃ a, step s = step { s with answers := [a] })

/-- A transport that never answers: after any positive number of silent draws the caller is still blocked in the same exchange; it is
stuck, not finished (R180, U6). That silence is drawn from the given answers and counted is the model's choice, log entry 4, and that
no result shows meanwhile log entry 2; nothing else changes. -/
def Obligations.SilentTransportLeavesTheCallerStuck : Prop :=
  ∀ (n : Nat) (s : State) (f : Frame) (as : List XferAnswer), s.pending = some f →
    s.answers = List.replicate (n + 1) .silent ++ as →
    runSteps (n + 1) s = .next { s with resp := none, answers := as, draws := s.draws + (n + 1) }

/-- A blocked caller runs nothing (R61 (a)): a step with an exchange in progress goes on and changes no sequence to
come, and no variable but the one that waits. That no result shows meanwhile is the model's choice, log entry 2: the caller holds no
operation's operands then (R250 says only that a result needs them held). -/
def Obligations.BlockedCallerRunsNothing : Prop :=
  ∀ (s : State) (f : Frame), s.pending = some f →
    ∃ t, step s = .next t ∧ t.resp = none ∧ t.agenda = s.agenda ∧ t.regtab = s.regtab ∧
      (t.current = s.current ∨ t.current = []) ∧
      ∀ x, s.awaiting ≠ some x → lookupVar t.vars x = lookupVar s.vars x

/-- Exchanges are atomic and totally ordered (R57, R61 (b)): a step adds nothing to the record of the bus, or it adds one exchange,
of the frame in progress, which it ends; and an exchange begins only when none is in progress. -/
def Obligations.ExchangesAreAtomicAndOrdered : Prop :=
  ∀ s t : State, step s = .next t →
    (t.bus = s.bus ∨
      ∃ f got, s.pending = some f ∧ t.pending = none ∧ t.bus = s.bus ++ [{ sent := f, got := got }]) ∧
    (∀ f, t.pending = some f → s.pending = none ∨ s.pending = some f)

/-- Nothing is sent but a frame the caller presents: if a step begins an exchange, its line presents that frame ("The block
never calls the transport by itself", R3). That no result shows after it, an earlier one being taken off the ports, is the model's
choice, log entry 2. -/
def Obligations.OnlyTheCallerStartsAnExchange : Prop :=
  ∀ (s t : State) (f : Frame), s.pending = none → step s = .next t → t.pending = some f →
    t.resp = none ∧
    ∃ l rest more, takeLine s.current s.agenda = some (l, rest, more) ∧ presentLine s.vars l.op = some (.frame f)

/-- A step is never refused (the one refusal is the model's own, log entry 8, and a blocked caller runs nothing, R61), and it faults
exactly where a line reads a variable that holds nothing of the kind it needs (the stop is the model's own, log entry 6); with no
line left nothing is presented, so no result shows, and nothing else changes (the idle step is the model's own, log entries 2, 5). -/
def Obligations.StepStopsOnlyOnAnUnboundVariable : Prop :=
  ∀ s : State,
    (∀ r, step s ≠ .refused r) ∧
    (∀ e, step s = .fault e ↔ s.pending = none ∧
      ∃ l rest more, takeLine s.current s.agenda = some (l, rest, more) ∧ presentLine s.vars l.op = none) ∧
    (s.pending = none → takeLine s.current s.agenda = none → step s = .next { s with resp := none })

/-- Every step keeps the invariant: the table stays valid, the block never drives `TransportFailure` and shows nothing while the
caller is blocked, the caller holds one value a variable, and a sequence's outcome is the error that ended it. The model's choice
in it: when a result shows (`quiet`, and that `blamed` lets the error go once the caller is idle), log entry 2; the exchange as
`pending` and `awaiting`, log entry 3; the caller's variables and outcome, log entry 5. -/
def Obligations.StepKeepsTheInvariant : Prop :=
  ∀ s t : State, Inv s → step s = .next t → Inv t

/-- The invariant holds right after reset, and after every power-up. The spec gives the validity of the table and that the ports
have no reset value (R35, R240, R241); the free contents of the reset table and the reset values of `resp`, `pending`, `awaiting`,
`bus`, `answers`, `vars` and `outcome` are the model's choice, log entries 1 to 5. -/
def Obligations.ResetHasTheInvariant : Prop :=
  Inv State.reset ∧
  ∀ (raw : List RawDef) (answers : List XferAnswer) (s : State), powerUp raw answers = some s → Inv s

/-! ### The access sequences; the names and expansions are the spec's own (R96, 92_eei_decisions D27)

The exchange, the given answers and the caller's variables and outcome that these statements speak of are the model's form of R180,
R95 and R208: log entries 3 to 5. That an error leaves the agenda to go on with is log entry 17. -/

/-- An error ends the sequence at the operation that raised it (R187): nothing after it runs, nothing is sent, nothing is kept.
That the caller records the outcome in a field, and keeps its agenda to go on with, is the model's choice, log entries 5 and 17. -/
def Obligations.ErrorEndsTheSequence : Prop :=
  ∀ (s : State) (l : Line) (rest : List Line) (more : List (List Line)) (p : Presented) (k : ErrorKind),
    s.pending = none → takeLine s.current s.agenda = some (l, rest, more) → presentLine s.vars l.op = some p →
    exec (decode p) { s with current := rest, agenda := more } =
      .next { s with current := rest, agenda := more, resp := some (.error k) } →
    step s = .next { s with current := [], agenda := more, resp := some (.error k), outcome := some k }

/-- `RDREG chip, raddr` (R183): one exchange of the read frame, and the value is the second byte of that same exchange's answer,
which is the register's content under T-CUR (R181) and any byte without it. -/
def Obligations.RdregReadsTheByte : Prop :=
  ∀ (s : State) (chip raddr : Byte) (k : Nat) (rest : List Line) (g : Frame) (as : List XferAnswer),
    s.pending = none → s.current = rdreg chip raddr k ++ rest → s.answers = .frame g :: as →
    chip.toNat ≤ 7 → raddr.toNat ≤ 0x1F →
    ∃ t : State, runSteps 4 s = .next t ∧
      lookupVar t.vars (varV k) = some (.byte g.data) ∧
      (∀ content, TCur content (.frame g) → lookupVar t.vars (varV k) = some (.byte content)) ∧
      t.bus = s.bus ++ [{ sent := { cmd := 0x80#8 ||| (chip <<< 5) ||| raddr, data := 0x00 }, got := some g }] ∧
      t.pending = none ∧ t.outcome = none ∧ t.current = rest ∧ t.agenda = s.agenda ∧ t.answers = as ∧ t.regtab = s.regtab

/-- `WRREG chip, raddr, wdata` (R184): one exchange of the write frame; the byte kept is the answer's second byte, which is the
value written under T-ECHO and any byte without it. The sequence is meant with its optional last line (log entry 15). -/
def Obligations.WrregSendsTheWriteFrame : Prop :=
  ∀ (s : State) (chip raddr wdata : Byte) (k : Nat) (rest : List Line) (g : Frame) (as : List XferAnswer),
    s.pending = none → s.current = wrreg chip raddr wdata k ++ rest → s.answers = .frame g :: as →
    chip.toNat ≤ 7 → raddr.toNat ≤ 0x1F →
    ∃ t : State, runSteps 4 s = .next t ∧
      t.bus = s.bus ++ [{ sent := { cmd := (chip <<< 5) ||| raddr, data := wdata }, got := some g }] ∧
      lookupVar t.vars (varV k) = some (.byte g.data) ∧
      (TEcho { cmd := (chip <<< 5) ||| raddr, data := wdata } (.frame g) →
        lookupVar t.vars (varV k) = some (.byte wdata)) ∧
      t.pending = none ∧ t.outcome = none ∧ t.current = rest ∧ t.agenda = s.agenda ∧ t.answers = as ∧ t.regtab = s.regtab

/-- A register access with a bad operand ends with `AddressOutOfRange` before any bus activity (R183, R184); one whose exchange
fails, of the read frame for `RDREG` and of the write frame for `WRREG`, ends with `TransportFailure`, its `DECRSP` not run (R206).
`WRREG` is meant with its optional last line and without it (log entry 15). That no result shows after the failed exchange is the
model's choice, log entry 2, and the given answers and the caller's outcome are log entries 4 and 5. -/
def Obligations.RegisterAccessFailsFast : Prop :=
  ∀ (s : State) (chip raddr wdata : Byte) (k : Nat) (rest : List Line) (as : List XferAnswer) (f : Frame), s.pending = none →
    (s.current = rdreg chip raddr k ++ rest ∧ f = { cmd := 0x80#8 ||| (chip <<< 5) ||| raddr, data := 0x00 } ∨
      (s.current = wrreg chip raddr wdata k ++ rest ∨ s.current = wrregSend chip raddr wdata k ++ rest) ∧
        f = { cmd := (chip <<< 5) ||| raddr, data := wdata }) →
    (7 < chip.toNat ∨ 0x1F < raddr.toNat →
      step s = .next { s with current := [], resp := some (.error .addressOutOfRange), outcome := some .addressOutOfRange }) ∧
    (chip.toNat ≤ 7 → raddr.toNat ≤ 0x1F → s.answers = .failure :: as →
      ∃ t : State, runSteps 3 s = .next t ∧
        t.outcome = some .transportFailure ∧ t.current = [] ∧ t.agenda = s.agenda ∧ t.pending = none ∧
        t.resp = none ∧ t.bus = s.bus ++ [{ sent := f, got := none }] ∧ t.answers = as ∧ t.regtab = s.regtab ∧
        lookupVar t.vars (varV k) = lookupVar s.vars (varV k))

/-- `RDBITS chip, raddr` (R185): the definition, the value and the BitVector of the register, by one exchange of its read frame. -/
def Obligations.RdbitsReadsAndDecodes : Prop :=
  ∀ (s : State) (chip raddr : Byte) (k : Nat) (rest : List Line) (g : Frame) (as : List XferAnswer),
    WfTable s.regtab → s.pending = none → s.current = rdbits chip raddr k ++ rest → s.answers = .frame g :: as →
    chip.toNat ≤ 7 → raddr.toNat ≤ 0x1F →
    ∃ (t : State) (d : RegisterDef), runSteps 6 s = .next t ∧ s.regtab[raddr.toNat]? = some d ∧
      lookupVar t.vars (varD k) = some (.definition d) ∧
      lookupVar t.vars (varV k) = some (.byte g.data) ∧
      lookupVar t.vars (varBv k) = some (.bits (bitVectorOf g.data d)) ∧
      t.bus = s.bus ++ [{ sent := { cmd := 0x80#8 ||| (chip <<< 5) ||| raddr, data := 0x00 }, got := some g }] ∧
      t.pending = none ∧ t.outcome = none ∧ t.current = rest ∧ t.agenda = s.agenda ∧ t.answers = as ∧ t.regtab = s.regtab ∧
      ∀ x : Var, x.idx ≠ k → lookupVar t.vars x = lookupVar s.vars x

/-- Which error `RDBITS` reports (R208): `UnknownRegister` for a register address above 0x1F whatever the chip; else
`AddressOutOfRange` for a chip above 7; nothing is sent in either case. -/
def Obligations.RdbitsErrorPriority : Prop :=
  ∀ (s : State) (chip raddr : Byte) (k : Nat) (rest : List Line),
    WfTable s.regtab → s.pending = none → s.current = rdbits chip raddr k ++ rest →
    (0x1F < raddr.toNat →
      step s = .next { s with current := [], resp := some (.error .unknownRegister), outcome := some .unknownRegister }) ∧
    (raddr.toNat ≤ 0x1F → 7 < chip.toNat →
      ∃ t : State, runSteps 2 s = .next t ∧ t.resp = some (.error .addressOutOfRange) ∧
        t.outcome = some .addressOutOfRange ∧ t.current = [] ∧ t.bus = s.bus ∧ t.pending = none)

/-- `DUMP chip` (R186): 32 exchanges in ascending register address, each complete before the next starts, and 32 triples kept. -/
def Obligations.DumpReadsEveryRegister : Prop :=
  ∀ (s : State) (chip : Byte) (rest : List Line) (gs : List Frame) (as : List XferAnswer),
    WfTable s.regtab → s.pending = none → s.current = dump chip ++ rest → gs.length = 32 →
    s.answers = gs.map XferAnswer.frame ++ as → chip.toNat ≤ 7 →
    ∃ t : State, runSteps 192 s = .next t ∧
      t.pending = none ∧ t.outcome = none ∧ t.current = rest ∧ t.answers = as ∧ t.regtab = s.regtab ∧
      t.bus = s.bus ++ gs.mapIdx (fun a g =>
        { sent := { cmd := 0x80#8 ||| (chip <<< 5) ||| BitVec.ofNat 8 a, data := 0x00 }, got := some g }) ∧
      ∀ a (h : a < gs.length), ∃ d, s.regtab[a]? = some d ∧ d.address.toNat = a ∧
        lookupVar t.vars (varD a) = some (.definition d) ∧
        lookupVar t.vars (varV a) = some (.byte gs[a].data) ∧
        lookupVar t.vars (varBv a) = some (.bits (bitVectorOf gs[a].data d))

/-- A `DUMP` whose exchange fails ends there with `TransportFailure`: the exchanges made are those of the registers before, each
with its answer, and last the failed one, of the next register's read frame; the triples already produced stand (R186, R206; the
iteration, its order and its stopping rule are the spec's own, 92_eei_decisions D27). -/
def Obligations.DumpStopsAtTheFirstFailure : Prop :=
  ∀ (s : State) (chip : Byte) (rest : List Line) (gs : List Frame) (as : List XferAnswer),
    WfTable s.regtab → s.pending = none → s.current = dump chip ++ rest → gs.length < 32 →
    s.answers = gs.map XferAnswer.frame ++ .failure :: as → chip.toNat ≤ 7 →
    ∃ t : State, runSteps (6 * gs.length + 4) s = .next t ∧
      t.pending = none ∧ t.outcome = some .transportFailure ∧ t.current = [] ∧ t.agenda = s.agenda ∧
      t.answers = as ∧ t.regtab = s.regtab ∧
      t.bus = s.bus ++ gs.mapIdx (fun a g =>
        { sent := { cmd := 0x80#8 ||| (chip <<< 5) ||| BitVec.ofNat 8 a, data := 0x00 }, got := some g }) ++
        [{ sent := { cmd := 0x80#8 ||| (chip <<< 5) ||| BitVec.ofNat 8 gs.length, data := 0x00 }, got := none }] ∧
      ∀ a (h : a < gs.length), ∃ d, s.regtab[a]? = some d ∧ d.address.toNat = a ∧
        lookupVar t.vars (varD a) = some (.definition d) ∧
        lookupVar t.vars (varV a) = some (.byte gs[a].data) ∧
        lookupVar t.vars (varBv a) = some (.bits (bitVectorOf gs[a].data d))

/-- `WRREG chip, raddr, wdata` without its optional last line (R184; the form with it is `WrregSendsTheWriteFrame`, log entry 15):
one exchange of the write frame, whose answer is received and not decoded; no variable but the two of its lines changes. -/
def Obligations.WrregMayLeaveTheResponse : Prop :=
  ∀ (s : State) (chip raddr wdata : Byte) (k : Nat) (rest : List Line) (g : Frame) (as : List XferAnswer),
    s.pending = none → s.current = wrregSend chip raddr wdata k ++ rest → s.answers = .frame g :: as →
    chip.toNat ≤ 7 → raddr.toNat ≤ 0x1F →
    ∃ t : State, runSteps 3 s = .next t ∧
      t.bus = s.bus ++ [{ sent := { cmd := (chip <<< 5) ||| raddr, data := wdata }, got := some g }] ∧
      lookupVar t.vars (varF k) = some (.frame { cmd := (chip <<< 5) ||| raddr, data := wdata }) ∧
      lookupVar t.vars (varG k) = some (.frame g) ∧
      (∀ x : Var, x ≠ varF k → x ≠ varG k → lookupVar t.vars x = lookupVar s.vars x) ∧
      t.pending = none ∧ t.outcome = none ∧ t.current = rest ∧ t.agenda = s.agenda ∧ t.answers = as ∧ t.regtab = s.regtab

/-! ### How long a result is valid -/

/-- A result is valid only while `op` and its operands are held (R250, R20; that the block is combinational is the spec's own,
92_eei_decisions D2): after a step the result ports show something exactly if that step presented a request to the block, and then
the answer to that very request. That a step is how long a caller holds its operands is the model's choice, log entry 2. -/
def Obligations.ResultsShowWhileHeld : Prop :=
  ∀ s t : State, step s = .next t →
    (t.resp ≠ none ↔ s.pending = none ∧ ∃ l rest more q,
      takeLine s.current s.agenda = some (l, rest, more) ∧ presentLine s.vars l.op = some (.request q)) ∧
    (∀ (l : Line) (rest : List Line) (more : List (List Line)) (q : Request),
      s.pending = none → takeLine s.current s.agenda = some (l, rest, more) → presentLine s.vars l.op = some (.request q) →
      ∃ r, exec (decode (.request q)) s = .next { s with resp := some r } ∧ t.resp = some r)
end

