-- ==== Sys2Proof/Laws/State.lean ====
section
/-! SUPPORT. One lemma per field per update of the state. -/

namespace Sys2Proof.Machine

/-! ### `drive` -/

@[simp] theorem drive_regtab (r : Response) (s : State) : (drive r s).regtab = s.regtab := rfl
@[simp] theorem drive_resp (r : Response) (s : State) : (drive r s).resp = some r := rfl
@[simp] theorem drive_pending (r : Response) (s : State) : (drive r s).pending = s.pending := rfl
@[simp] theorem drive_awaiting (r : Response) (s : State) : (drive r s).awaiting = s.awaiting := rfl
@[simp] theorem drive_bus (r : Response) (s : State) : (drive r s).bus = s.bus := rfl
@[simp] theorem drive_answers (r : Response) (s : State) : (drive r s).answers = s.answers := rfl
@[simp] theorem drive_draws (r : Response) (s : State) : (drive r s).draws = s.draws := rfl
@[simp] theorem drive_current (r : Response) (s : State) : (drive r s).current = s.current := rfl
@[simp] theorem drive_agenda (r : Response) (s : State) : (drive r s).agenda = s.agenda := rfl
@[simp] theorem drive_vars (r : Response) (s : State) : (drive r s).vars = s.vars := rfl
@[simp] theorem drive_outcome (r : Response) (s : State) : (drive r s).outcome = s.outcome := rfl

/-! ### `raise` -/

@[simp] theorem raise_regtab (k : ErrorKind) (s : State) : (raise k s).regtab = s.regtab := rfl
@[simp] theorem raise_resp (k : ErrorKind) (s : State) : (raise k s).resp = some (.error k) := rfl
@[simp] theorem raise_pending (k : ErrorKind) (s : State) : (raise k s).pending = s.pending := rfl
@[simp] theorem raise_awaiting (k : ErrorKind) (s : State) : (raise k s).awaiting = s.awaiting := rfl
@[simp] theorem raise_bus (k : ErrorKind) (s : State) : (raise k s).bus = s.bus := rfl
@[simp] theorem raise_answers (k : ErrorKind) (s : State) : (raise k s).answers = s.answers := rfl
@[simp] theorem raise_draws (k : ErrorKind) (s : State) : (raise k s).draws = s.draws := rfl
@[simp] theorem raise_current (k : ErrorKind) (s : State) : (raise k s).current = s.current := rfl
@[simp] theorem raise_agenda (k : ErrorKind) (s : State) : (raise k s).agenda = s.agenda := rfl
@[simp] theorem raise_vars (k : ErrorKind) (s : State) : (raise k s).vars = s.vars := rfl
@[simp] theorem raise_outcome (k : ErrorKind) (s : State) : (raise k s).outcome = s.outcome := rfl

/-! ### `release` -/

@[simp] theorem release_resp (s : State) : (release s).resp = none := rfl
@[simp] theorem release_regtab (s : State) : (release s).regtab = s.regtab := rfl
@[simp] theorem release_pending (s : State) : (release s).pending = s.pending := rfl
@[simp] theorem release_awaiting (s : State) : (release s).awaiting = s.awaiting := rfl
@[simp] theorem release_bus (s : State) : (release s).bus = s.bus := rfl
@[simp] theorem release_answers (s : State) : (release s).answers = s.answers := rfl
@[simp] theorem release_draws (s : State) : (release s).draws = s.draws := rfl
@[simp] theorem release_current (s : State) : (release s).current = s.current := rfl
@[simp] theorem release_agenda (s : State) : (release s).agenda = s.agenda := rfl
@[simp] theorem release_vars (s : State) : (release s).vars = s.vars := rfl
@[simp] theorem release_outcome (s : State) : (release s).outcome = s.outcome := rfl

/-! ### `consumeAnswer` -/

@[simp] theorem consumeAnswer_regtab (s : State) : (consumeAnswer s).regtab = s.regtab := rfl
@[simp] theorem consumeAnswer_resp (s : State) : (consumeAnswer s).resp = s.resp := rfl
@[simp] theorem consumeAnswer_pending (s : State) : (consumeAnswer s).pending = s.pending := rfl
@[simp] theorem consumeAnswer_awaiting (s : State) : (consumeAnswer s).awaiting = s.awaiting := rfl
@[simp] theorem consumeAnswer_bus (s : State) : (consumeAnswer s).bus = s.bus := rfl
@[simp] theorem consumeAnswer_answers (s : State) : (consumeAnswer s).answers = s.answers.tail := rfl
@[simp] theorem consumeAnswer_draws (s : State) : (consumeAnswer s).draws = s.draws + 1 := rfl
@[simp] theorem consumeAnswer_current (s : State) : (consumeAnswer s).current = s.current := rfl
@[simp] theorem consumeAnswer_agenda (s : State) : (consumeAnswer s).agenda = s.agenda := rfl
@[simp] theorem consumeAnswer_vars (s : State) : (consumeAnswer s).vars = s.vars := rfl
@[simp] theorem consumeAnswer_outcome (s : State) : (consumeAnswer s).outcome = s.outcome := rfl

/-! ### `bindVar` -/

@[simp] theorem bindVar_regtab (x : Var) (v : Value) (s : State) : (bindVar x v s).regtab = s.regtab := rfl
@[simp] theorem bindVar_resp (x : Var) (v : Value) (s : State) : (bindVar x v s).resp = s.resp := rfl
@[simp] theorem bindVar_pending (x : Var) (v : Value) (s : State) : (bindVar x v s).pending = s.pending := rfl
@[simp] theorem bindVar_awaiting (x : Var) (v : Value) (s : State) : (bindVar x v s).awaiting = s.awaiting := rfl
@[simp] theorem bindVar_bus (x : Var) (v : Value) (s : State) : (bindVar x v s).bus = s.bus := rfl
@[simp] theorem bindVar_answers (x : Var) (v : Value) (s : State) : (bindVar x v s).answers = s.answers := rfl
@[simp] theorem bindVar_draws (x : Var) (v : Value) (s : State) : (bindVar x v s).draws = s.draws := rfl
@[simp] theorem bindVar_current (x : Var) (v : Value) (s : State) : (bindVar x v s).current = s.current := rfl
@[simp] theorem bindVar_agenda (x : Var) (v : Value) (s : State) : (bindVar x v s).agenda = s.agenda := rfl
@[simp] theorem bindVar_vars (x : Var) (v : Value) (s : State) : (bindVar x v s).vars = (x, v) :: s.vars.filter fun e => e.1 != x := rfl
@[simp] theorem bindVar_outcome (x : Var) (v : Value) (s : State) : (bindVar x v s).outcome = s.outcome := rfl

/-! ### `closeExchange` -/

@[simp] theorem closeExchange_regtab (f : Frame) (got : Option Frame) (s : State) : (closeExchange f got s).regtab = s.regtab := rfl
@[simp] theorem closeExchange_resp (f : Frame) (got : Option Frame) (s : State) : (closeExchange f got s).resp = s.resp := rfl
@[simp] theorem closeExchange_pending (f : Frame) (got : Option Frame) (s : State) : (closeExchange f got s).pending = none := rfl
@[simp] theorem closeExchange_awaiting (f : Frame) (got : Option Frame) (s : State) : (closeExchange f got s).awaiting = none := rfl
@[simp] theorem closeExchange_bus (f : Frame) (got : Option Frame) (s : State) : (closeExchange f got s).bus = s.bus ++ [⟨f, got⟩] := rfl
@[simp] theorem closeExchange_answers (f : Frame) (got : Option Frame) (s : State) : (closeExchange f got s).answers = s.answers := rfl
@[simp] theorem closeExchange_draws (f : Frame) (got : Option Frame) (s : State) : (closeExchange f got s).draws = s.draws := rfl
@[simp] theorem closeExchange_current (f : Frame) (got : Option Frame) (s : State) : (closeExchange f got s).current = s.current := rfl
@[simp] theorem closeExchange_agenda (f : Frame) (got : Option Frame) (s : State) : (closeExchange f got s).agenda = s.agenda := rfl
@[simp] theorem closeExchange_vars (f : Frame) (got : Option Frame) (s : State) : (closeExchange f got s).vars = s.vars := rfl
@[simp] theorem closeExchange_outcome (f : Frame) (got : Option Frame) (s : State) : (closeExchange f got s).outcome = s.outcome := rfl

/-! ### `endSequence` -/

@[simp] theorem endSequence_regtab (k : ErrorKind) (s : State) : (endSequence k s).regtab = s.regtab := rfl
@[simp] theorem endSequence_resp (k : ErrorKind) (s : State) : (endSequence k s).resp = s.resp := rfl
@[simp] theorem endSequence_pending (k : ErrorKind) (s : State) : (endSequence k s).pending = s.pending := rfl
@[simp] theorem endSequence_awaiting (k : ErrorKind) (s : State) : (endSequence k s).awaiting = s.awaiting := rfl
@[simp] theorem endSequence_bus (k : ErrorKind) (s : State) : (endSequence k s).bus = s.bus := rfl
@[simp] theorem endSequence_answers (k : ErrorKind) (s : State) : (endSequence k s).answers = s.answers := rfl
@[simp] theorem endSequence_draws (k : ErrorKind) (s : State) : (endSequence k s).draws = s.draws := rfl
@[simp] theorem endSequence_current (k : ErrorKind) (s : State) : (endSequence k s).current = [] := rfl
@[simp] theorem endSequence_agenda (k : ErrorKind) (s : State) : (endSequence k s).agenda = s.agenda := rfl
@[simp] theorem endSequence_vars (k : ErrorKind) (s : State) : (endSequence k s).vars = s.vars := rfl
@[simp] theorem endSequence_outcome (k : ErrorKind) (s : State) : (endSequence k s).outcome = some k := rfl

/-! ### `bindDst` -/

@[simp] theorem bindDst_regtab (dst : Option Var) (v : Value) (s : State) : (bindDst dst v s).regtab = s.regtab := by
  cases dst <;> rfl
@[simp] theorem bindDst_resp (dst : Option Var) (v : Value) (s : State) : (bindDst dst v s).resp = s.resp := by
  cases dst <;> rfl
@[simp] theorem bindDst_pending (dst : Option Var) (v : Value) (s : State) : (bindDst dst v s).pending = s.pending := by
  cases dst <;> rfl
@[simp] theorem bindDst_awaiting (dst : Option Var) (v : Value) (s : State) : (bindDst dst v s).awaiting = s.awaiting := by
  cases dst <;> rfl
@[simp] theorem bindDst_bus (dst : Option Var) (v : Value) (s : State) : (bindDst dst v s).bus = s.bus := by
  cases dst <;> rfl
@[simp] theorem bindDst_answers (dst : Option Var) (v : Value) (s : State) : (bindDst dst v s).answers = s.answers := by
  cases dst <;> rfl
@[simp] theorem bindDst_draws (dst : Option Var) (v : Value) (s : State) : (bindDst dst v s).draws = s.draws := by
  cases dst <;> rfl
@[simp] theorem bindDst_current (dst : Option Var) (v : Value) (s : State) : (bindDst dst v s).current = s.current := by
  cases dst <;> rfl
@[simp] theorem bindDst_agenda (dst : Option Var) (v : Value) (s : State) : (bindDst dst v s).agenda = s.agenda := by
  cases dst <;> rfl
@[simp] theorem bindDst_outcome (dst : Option Var) (v : Value) (s : State) : (bindDst dst v s).outcome = s.outcome := by
  cases dst <;> rfl
@[simp] theorem bindDst_none (v : Value) (s : State) : bindDst none v s = s := rfl
@[simp] theorem bindDst_some (x : Var) (v : Value) (s : State) : bindDst (some x) v s = bindVar x v s := rfl

/-! ### The reset state -/

@[simp] theorem initialState_regtab (t : List RegisterDef) (a : List XferAnswer) : (initialState t a).regtab = t := rfl
@[simp] theorem initialState_resp (t : List RegisterDef) (a : List XferAnswer) : (initialState t a).resp = none := rfl
@[simp] theorem initialState_pending (t : List RegisterDef) (a : List XferAnswer) : (initialState t a).pending = none := rfl
@[simp] theorem initialState_awaiting (t : List RegisterDef) (a : List XferAnswer) : (initialState t a).awaiting = none := rfl
@[simp] theorem initialState_bus (t : List RegisterDef) (a : List XferAnswer) : (initialState t a).bus = [] := rfl
@[simp] theorem initialState_answers (t : List RegisterDef) (a : List XferAnswer) : (initialState t a).answers = a := rfl
@[simp] theorem initialState_draws (t : List RegisterDef) (a : List XferAnswer) : (initialState t a).draws = 0 := rfl
@[simp] theorem initialState_current (t : List RegisterDef) (a : List XferAnswer) : (initialState t a).current = [] := rfl
@[simp] theorem initialState_agenda (t : List RegisterDef) (a : List XferAnswer) : (initialState t a).agenda = [] := rfl
@[simp] theorem initialState_vars (t : List RegisterDef) (a : List XferAnswer) : (initialState t a).vars = [] := rfl
@[simp] theorem initialState_outcome (t : List RegisterDef) (a : List XferAnswer) : (initialState t a).outcome = none := rfl
theorem reset_eq : State.reset = initialState resetTable [] := rfl

end Sys2Proof.Machine
end

