-- ==== Sys2Proof/Laws/Ops.lean ====
section
/-! SUPPORT. For each shared operation, what it can do, said once. -/

namespace Sys2Proof.Machine

/-! ### Operands -/

theorem isReserved_iff (n : Name) : isReserved n = true ↔ n = "-" := by
  simp [isReserved, reservedMark]

theorem raddrOutOfRange_iff (r : Byte) : raddrOutOfRange r = true ↔ 0x1F < r.toNat := by
  simp [raddrOutOfRange]

theorem addressOutOfRange_iff (c r : Byte) : addressOutOfRange c r = true ↔ 7 < c.toNat ∨ 0x1F < r.toNat := by
  simp [addressOutOfRange, chipOutOfRange, raddrOutOfRange]

/-- The boolean of sequence index `p` is bit number `7 - p` (R10). -/
theorem bitAtIndex_eq (v : Byte) (p : Nat) : bitAtIndex v p = v.getLsbD (7 - p) := by
  have h : ((v >>> (7 - p)) &&& 1) = if v.getLsbD (7 - p) then 1 else 0 := by
    apply BitVec.eq_of_getLsbD_eq
    intro i hi
    rcases Nat.eq_zero_or_pos i with rfl | hp
    · split <;> simp_all
    · split <;> simp [show i ≠ 0 by omega]
  simp only [bitAtIndex, h]
  split <;> simp_all

@[simp] theorem lanesOf_get (v : Byte) (d : RegisterDef) (p : Fin 8) : (lanesOf v d)[p] = laneAt v d p := by
  fin_cases p <;> rfl

/-! ### The transport and the exchange -/

theorem startExchange_next {f : Frame} {s t : State} :
    startExchange f s = .next t ↔ s.pending = none ∧ t = { s with resp := none, pending := some f } := by
  unfold startExchange
  cases h : s.pending <;> simp [release, eq_comm]

theorem nextAnswer_cons {f : Frame} {s : State} {a : XferAnswer} {as : List XferAnswer} (h : s.answers = a :: as) :
    nextAnswer f s = a := by
  simp [nextAnswer, h]

@[simp] theorem deliver_frame (f g : Frame) (s : State) :
    deliver f (.frame g) s = bindDst s.awaiting (.frame g) (closeExchange f (some g) s) := rfl

@[simp] theorem deliver_failure (f : Frame) (s : State) :
    deliver f .failure s = endSequence .transportFailure (closeExchange f none s) := rfl

@[simp] theorem deliver_silent (f : Frame) (s : State) : deliver f .silent s = s := rfl

/-! ### The table -/

/-- What `tableAt` finds is an entry of the table at that address. -/
theorem tableAt_some {t : List RegisterDef} {a : Byte} {d : RegisterDef} (h : tableAt t a = some d) :
    d ∈ t ∧ d.address.toNat = a.toNat :=
  ⟨List.mem_of_find?_eq_some h, by simpa using List.find?_some h⟩

/-- `tableAt` finds nothing exactly where no entry has the address. -/
theorem tableAt_none {t : List RegisterDef} {a : Byte} :
    tableAt t a = none ↔ ∀ d ∈ t, d.address.toNat ≠ a.toNat := by
  simp [tableAt]

/-! ### The caller -/

@[simp] theorem lookupVar_cons_self (x : Var) (v : Value) (l : List (Var × Value)) : lookupVar ((x, v) :: l) x = some v := by
  simp [lookupVar]

/-- Binding one variable leaves the value of every other one. -/
theorem lookupVar_bind_other {x y : Var} (h : x ≠ y) (v : Value) (l : List (Var × Value)) :
    lookupVar ((x, v) :: l.filter fun e => e.1 != x) y = lookupVar l y := by
  have hx : (x == y) = false := by simpa using h
  have key : (l.filter fun e => e.1 != x).find? (fun e => e.1 == y) = l.find? fun e => e.1 == y := by
    induction l with
    | nil => rfl
    | cons e l ih =>
      by_cases he : e.1 = x
      · have hy : (e.1 == y) = false := by simpa [he] using h
        rw [List.filter_cons_of_neg (by simpa using he), List.find?_cons, hy, ih]
      · rw [List.filter_cons_of_pos (by simpa using he), List.find?_cons, List.find?_cons, ih]
  simp [lookupVar, hx, key]

/-- Binding keeps one entry a variable. -/
theorem bind_keys_nodup {l : List (Var × Value)} (h : (l.map Prod.fst).Nodup) (x : Var) (v : Value) :
    (((x, v) :: l.filter fun e => e.1 != x).map Prod.fst).Nodup := by
  rw [List.map_cons, List.nodup_cons]
  refine ⟨?_, h.sublist (List.filter_sublist.map _)⟩
  simp [List.mem_map, List.mem_filter]

@[simp] theorem finishLine_next (dst : Option Var) (s : State) : finishLine dst (.next s) = .next (settle dst s) := rfl

theorem settle_pending {dst : Option Var} {s : State} {f : Frame} (h : s.pending = some f) :
    settle dst s = { s with awaiting := dst, outcome := none } := by
  simp [settle, h]

theorem settle_response {dst : Option Var} {s : State} {r : Response} (hp : s.pending = none) (hr : s.resp = some r) :
    settle dst s = keepResponse dst r s := by
  simp [settle, hp, hr]

/-! ### The step -/

theorem step_blocked {s : State} {f : Frame} (h : s.pending = some f) : step s = .next (answerExchange f s) := by
  simp [step, h]

theorem step_idle {s : State} (hp : s.pending = none) (hl : takeLine s.current s.agenda = none) :
    step s = .next (release s) := by
  simp [step, hp, hl]

theorem step_line {s : State} {l : Line} {rest : List Line} {more : List (List Line)} (hp : s.pending = none)
    (hl : takeLine s.current s.agenda = some (l, rest, more)) :
    step s = runLine l { s with current := rest, agenda := more } := by
  simp [step, hp, hl]

theorem runSteps_next {n : Nat} {s t : State} (h : step s = .next t) : runSteps (n + 1) s = runSteps n t := by
  simp [runSteps, h]

end Sys2Proof.Machine
end

