-- ==== Sys2Proof/Laws/PerInstr.lean ====
section
/-! SUPPORT. Statements made of every instruction, one lemma per constructor. -/

namespace Sys2Proof.Laws.RowMatch

/-- The row of the opcode table with the instruction's mnemonic matches the ports that present it (R97). -/
def Statement (i : Instr) : Prop :=
  i.wf = true → ∃ row ∈ opTable, row.mnemonic = i.mnemonic ∧ row.covers (encode i) = true

/-- A request row covers what presents an instruction of its code. -/
theorem covers_request {row : OpRow} {r : Request} (op : BitVec 3) (hf : row.format = .req) (ho : r.op = op)
    (h : (op.setWidth 16 &&& row.mask) = row.matchBits) : row.covers (.request r) = true := by
  simp [OpRow.covers, Presented.tableKey, hf, ho, h]

/-- A frame row covers the frames whose bits match. -/
theorem covers_frame {row : OpRow} {f : Frame} (hf : row.format = .frame) (h : (f.toWord &&& row.mask) = row.matchBits) :
    row.covers (.frame f) = true := by
  simp [OpRow.covers, Presented.tableKey, hf, h]

theorem lookup (raddr : Byte) : Statement (.lookup raddr) :=
  fun _ => ⟨⟨"LOOKUP", .req, 0x0, 0x7⟩, by decide, rfl, covers_request 0 rfl rfl (by decide)⟩
theorem bitname (d : RegisterDef) (pos : Byte) : Statement (.bitname d pos) :=
  fun _ => ⟨⟨"BITNAME", .req, 0x1, 0x7⟩, by decide, rfl, covers_request 1 rfl rfl (by decide)⟩
theorem encrd (chip raddr : Byte) : Statement (.encrd chip raddr) :=
  fun _ => ⟨⟨"ENCRD", .req, 0x2, 0x7⟩, by decide, rfl, covers_request 2 rfl rfl (by decide)⟩
theorem encwr (chip raddr wdata : Byte) : Statement (.encwr chip raddr wdata) :=
  fun _ => ⟨⟨"ENCWR", .req, 0x3, 0x7⟩, by decide, rfl, covers_request 3 rfl rfl (by decide)⟩
theorem decrsp (frame : Frame) : Statement (.decrsp frame) :=
  fun _ => ⟨⟨"DECRSP", .req, 0x4, 0x7⟩, by decide, rfl, covers_request 4 rfl rfl (by decide)⟩
theorem decbits (value : Byte) (d : RegisterDef) : Statement (.decbits value d) :=
  fun _ => ⟨⟨"DECBITS", .req, 0x5, 0x7⟩, by decide, rfl, covers_request 5 rfl rfl (by decide)⟩
theorem reserved (op : BitVec 3) : Statement (.reserved op) := by
  intro h
  obtain h | h : op = 6 ∨ op = 7 := by simpa [Instr.wf] using h
  all_goals
    exact ⟨⟨"RESERVED", .req, 0x6, 0x6⟩, by decide, rfl, covers_request _ rfl h (by decide)⟩

/-- Bit 15 of a packed frame is bit 7 of its command byte (R80, R85). -/
theorem toWord_discriminator (f : Frame) : f.toWord &&& 0x8000 = if f.cmd.msb then 0x8000 else 0 := by
  have hb : ∀ i < 16, (0x8000 : BitVec 16).getLsbD i = decide (i = 15) := by decide
  have hm : f.toWord.getLsbD 15 = f.cmd.msb := by
    rw [Frame.toWord, BitVec.getLsbD_append, BitVec.msb_eq_getLsbD_last]
    rfl
  apply BitVec.eq_of_getLsbD_eq
  intro i hi
  rw [BitVec.getLsbD_and, hb i hi]
  by_cases h : i = 15
  · subst h
    rw [hm]
    cases f.cmd.msb <;> decide
  · cases f.cmd.msb <;> simp only [h, decide_false, Bool.and_false, if_true, hb i hi]
    simp

/-- The top bit of a command byte is its discriminator (R82). -/
theorem commandByte_msb (disc : BitVec 1) (c : BitVec 2) (r : BitVec 5) : (commandByte disc c r).msb = disc.msb := by
  unfold commandByte
  rw [BitVec.msb_append, BitVec.msb_append]
  simp

theorem frameRd (chipLo : BitVec 2) (raddr : BitVec 5) (data : Byte) : Statement (.frameRd chipLo raddr data) :=
  fun _ => ⟨⟨"FRAME.RD", .frame, 0x8000, 0x8000⟩, by decide, rfl,
    covers_frame rfl (by rw [toWord_discriminator, commandByte_msb]; rfl)⟩
theorem frameWr (chipLo : BitVec 2) (raddr : BitVec 5) (value : Byte) : Statement (.frameWr chipLo raddr value) :=
  fun _ => ⟨⟨"FRAME.WR", .frame, 0x0000, 0x8000⟩, by decide, rfl,
    covers_frame rfl (by rw [toWord_discriminator, commandByte_msb]; rfl)⟩

end Sys2Proof.Laws.RowMatch
end

