-- ==== Sys2Proof/Tests/Slice0.lean ====
section
/-! SUPPORT. The model's own tests. Expected results come from spec/95_test_vectors.md (its ids are named) or are written out from
the encodings of spec/30_encoding.md. The second half shows, for every statement with hypotheses, values that meet them. -/

namespace Sys2Proof.Tests

open Sys2Proof.Machine

/-! ### Helpers -/

/-- A definition with eight reserved positions. -/
def blank (a : Nat) : RegisterDef :=
  { address := BitVec.ofNat 5 a, name := "Reg", bits := #v["-", "-", "-", "-", "-", "-", "-", "-"] }

/-- A valid table made up for the tests: `LEDCntrl` at 0x0E, blank rows elsewhere. -/
def demoTable : List RegisterDef := (List.range 32).map fun a => if a = 14 then ledCntrl else blank a

/-- A machine over that table. -/
def demo (current : List Line) (answers : List XferAnswer) : State := { initialState demoTable answers with current := current }

/-- A machine with the frame `8E 00` on its way and the variable `g` waiting for the answer. -/
def blocked (answers : List XferAnswer) : State :=
  { demo [] answers with pending := some ⟨0x8E, 0x00⟩, awaiting := some (varG 0) }

/-- The definition `X` of 95_test_vectors. -/
def defX : RegisterDef := { address := 1, name := "X", bits := #v["-", "-", "Q5", "-", "Q3", "-", "-", "Q0"] }

/-- The definition `Y` of 95_test_vectors, which repeats a name. -/
def defY : RegisterDef := { address := 2, name := "Y", bits := #v["A", "V", "B", "C", "D", "E", "V", "F"] }

/-- What the result ports show after a meaning that goes on. -/
def shown : Result → Option Response
  | .next s => s.resp
  | .fault _ => none
  | .refused _ => none

/-- The BitVector shown after a meaning that goes on. -/
def shownBits (r : Result) : Option BitList :=
  match shown r with
  | some (.lanes l) => some (bitListOf l)
  | _ => none

/-- The frame on its way after a meaning that goes on. -/
def sent : Result → Option Frame
  | .next s => s.pending
  | .fault _ => none
  | .refused _ => none

/-- A result that goes on. -/
def goesOn : Result → Bool
  | .next _ => true
  | .fault _ => false
  | .refused _ => false

/-! ### Decoding, from words written out from R82, R85, R87, R90 -/

theorem test_decode_lookup : decode (.request { Request.zero with op := 0b000, raddr := 0x0E }) = .lookup 0x0E := by decide
theorem test_decode_bitname :
    decode (.request { Request.zero with op := 0b001, defIn := defX, pos := 2 }) = .bitname defX 2 := by decide
theorem test_decode_encrd :
    decode (.request { Request.zero with op := 0b010, chip := 8, raddr := 0x20, wdata := 0xFF }) = .encrd 8 0x20 := by decide
theorem test_decode_encwr :
    decode (.request { Request.zero with op := 0b011, chip := 1, raddr := 0x0F, wdata := 5 }) = .encwr 1 0x0F 5 := by decide
theorem test_decode_decrsp :
    decode (.request { Request.zero with op := 0b100, frameIn := ⟨0xA5, 0x5A⟩ }) = .decrsp ⟨0xA5, 0x5A⟩ := by decide
theorem test_decode_decbits :
    decode (.request { Request.zero with op := 0b101, valueIn := 0xA0, defIn := ledCntrl }) = .decbits 0xA0 ledCntrl := by
  decide
theorem test_decode_reserved :
    decodeTableWord 8 0b110 = some (.reserved 6) ∧ decodeTableWord 8 0b111 = some (.reserved 7) := by decide
theorem test_decode_frameRd : decodeTableWord 16 0b1110111011000011 = some (.frameRd 0b11 0b01110 0xC3) := by decide
theorem test_decode_frameWr : decodeTableWord 16 0b0100111010100000 = some (.frameWr 0b10 0b01110 0xA0) := by decide
theorem test_decode_refuses_longer_words : decodeTableWord 24 0 = none := by decide

/-! ### WellFormed: the check refuses an ill-formed term and stops at the right code -/

theorem test_wf_refuses_reserved_5 : (Instr.reserved 5).wf = false := by decide
theorem test_wf_accepts_reserved_6_7 : (Instr.reserved 6).wf = true ∧ (Instr.reserved 7).wf = true := by decide

/-! ### The operations -/

theorem test_lookup_K2 : shown (exec (.lookup 0x0E) (demo [] [])) = some (.definition ledCntrl) := by decide
theorem test_lookup_K5 : shown (exec (.lookup 0x2E) (demo [] [])) = some (.error .unknownRegister) := by decide
theorem test_bitname_B13 : shown (exec (.bitname defX 7) (demo [] [])) = some (.name "Q0") := by decide
theorem test_bitname_B9 : shown (exec (.bitname ledCntrl 8) (demo [] [])) = some (.error .invalidBitPosition) := by decide
theorem test_encrd_ERD6 : shown (exec (.encrd 5 0x0E) (demo [] [])) = some (.frame ⟨0xAE, 0x00⟩) := by decide
theorem test_encrd_ERD12 : shown (exec (.encrd 7 0x20) (demo [] [])) = some (.error .addressOutOfRange) := by decide
theorem test_encwr_EWR5 : shown (exec (.encwr 4 0x00 0xAA) (demo [] [])) = some (.frame ⟨0x80, 0xAA⟩) := by decide
theorem test_encwr_EWR4 : shown (exec (.encwr 2 0x0E 0xA0) (demo [] [])) = some (.frame ⟨0x4E, 0xA0⟩) := by decide
theorem test_decrsp_DRSP5 : shown (exec (.decrsp ⟨0xA5, 0x5A⟩) (demo [] [])) = some (.value 0x5A) := by decide
theorem test_decbits_DBITS12 :
    shownBits (exec (.decbits 0x28 defX) (demo [] [])) = some [("Q5", true), ("Q3", true), ("Q0", false)] := by decide
theorem test_decbits_DBITS14 :
    shownBits (exec (.decbits 0x40 defY) (demo [] [])) =
      some [("A", false), ("V", true), ("B", false), ("C", false), ("D", false), ("E", false), ("V", false), ("F", false)] := by
  decide
theorem test_reserved_X2 : shown (exec (.reserved 7) (demo [] [])) = some (.error .reservedOp) := by decide
theorem test_frameRd_sends : sent (exec (.frameRd 0 0x0E 0) (demo [] [])) = some ⟨0x8E, 0x00⟩ := by decide
theorem test_frameWr_sends : sent (exec (.frameWr 1 0x0F 5) (demo [] [])) = some ⟨0x2F, 0x05⟩ := by decide
theorem test_frameWr_refused_while_blocked : goesOn (exec (.frameWr 1 0x0F 5) (blocked [])) = false := by decide

/-! ### The step -/

theorem test_every_row_runs_first_after_reset :
    ∀ x ∈ [(8, 0), (8, 1), (8, 2), (8, 3), (8, 4), (8, 5), (8, 6), (8, 7), (16, 0x8000), (16, 0)],
      goesOn (step (State.reset.withFetchWord x.1 x.2)) = true := by decide
theorem test_xfer_line_sends :
    sent (step (demo [{ dst := some (varG 0), op := .xfer (.lit ⟨0xDE, 0x00⟩) }] [])) = some ⟨0xDE, 0x00⟩ := by decide
/-- R250: a result shows while its operands are held, and not once the caller presents nothing. -/
theorem test_result_shows_while_held :
    shown (step { demo [] [] with current := [{ dst := none, op := .decrsp (.lit ⟨0x00, 0xA0⟩) }] }) = some (.value 0xA0) ∧
      shown (step { demo [] [] with resp := some (.value 0xA0) }) = none := by decide
theorem test_unbound_variable_stops :
    goesOn (step (demo [{ dst := none, op := .decrsp (.var (varG 0)) }] [])) = false := by decide

/-! ### Hypotheses that can be met: for each statement that has some, values that meet them all, clause by clause -/

theorem test_demo_table_valid : WfTable demoTable := by decide

theorem test_witness_DecodeOfEncode : (Instr.reserved 7).wf = true ∧ (Instr.frameWr 3 31 255).wf = true := by decide
theorem test_witness_DiscriminatorClassifiesFrames :
    0x80 ≤ (Frame.mk 0x80 0).cmd.toNat ∧ (Frame.mk 0x7F 0).cmd.toNat < 0x80 := by decide
theorem test_witness_OpSelectsTheOperation : ∀ n < 8, ({ Request.zero with op := BitVec.ofNat 3 n }).op.toNat = n := by decide
theorem test_witness_DistinctAddressesFillTheTable :
    w1 (demoTable.map rawOf) = true ∧ w3 (demoTable.map rawOf) = true ∧ w4 (demoTable.map rawOf) = true := by decide
theorem test_witness_OnlyValidTablesYieldABlock : wfTable (demoTable.map rawOf) = true ∧ wfTable [] = false := by decide

/-- The source's flawed `Status` row as far as R27 tells it. -/
def flawedStatus : RawDef :=
  { address := 3, name := "Status", bits := ["-", "VCCWarn", "-", "-", "-", "-", "VCCWarn", "-"] }
theorem test_witness_RepeatedBitNameIsRefused :
    flawedStatus ∈ [flawedStatus] ∧ 1 < 6 ∧ flawedStatus.bits[1]? = some "VCCWarn" ∧ flawedStatus.bits[6]? = some "VCCWarn" ∧
      ("VCCWarn" : Name) ≠ "-" := by decide

theorem test_witness_LookupAnswersTheEntry :
    0x1F < (0x20 : Byte).toNat ∧ (∀ e ∈ [blank 1], e.address.toNat ≠ (0 : Byte).toNat) ∧ WfTable (demo [] []).regtab ∧
      (0x1F : Byte).toNat ≤ 0x1F := by decide
theorem test_witness_LedCntrlIsAnsweredAt0x0E : WfTable (demo [] []).regtab := by decide
theorem test_witness_BitnameAnswersTheName : (7 : Byte).toNat < 8 ∧ 7 < (8 : Byte).toNat := by decide
theorem test_witness_EncrdBuildsTheReadFrame :
    7 < (8 : Byte).toNat ∧ 0x1F < (0x20 : Byte).toNat ∧ (7 : Byte).toNat ≤ 7 ∧ (0x1F : Byte).toNat ≤ 0x1F ∧ 4 ≤ (4 : Byte).toNat ∧
      0x80 ≤ (0x80 : Byte).toNat := by decide
theorem test_witness_EncwrBuildsTheWriteFrame :
    7 < (8 : Byte).toNat ∧ 0x1F < (0x20 : Byte).toNat ∧ (3 : Byte).toNat ≤ 3 ∧ (0x1F : Byte).toNat ≤ 0x1F ∧ 4 ≤ (4 : Byte).toNat ∧
      (4 : Byte).toNat ≤ 7 := by decide
theorem test_witness_ProducersOfACommandByte : (0x7F : Byte).toNat < 0x80 ∧ 0x80 ≤ (0x80 : Byte).toNat := by decide
theorem test_witness_EncwrIsOneToOne :
    shown (exec (.encwr 7 0x1F 0xFF) (demo [] [])) = some (.frame ⟨0xFF, 0xFF⟩) := by decide
theorem test_witness_DecbitsSplitsTheByte :
    (∀ p : Fin 8, (blank 0).bits[p] = "-") ∧ ∀ p : Fin 8, ledCntrl.bits[p] ≠ "-" := by decide
theorem test_witness_ReservedCodesRaiseReservedOp : ({ Request.zero with op := 7 }).op = 6 ∨ ({ Request.zero with op := 7 }).op = 7 := by
  decide
theorem test_witness_FramesAreHandedToTheTransport : (demo [] []).pending = none ∧ (blocked []).pending ≠ none := by decide
theorem test_witness_DecbitsLosesNothing : ∀ p : Fin 8, ledCntrl.bits[p] ≠ "-" := by decide
theorem test_witness_ReservedBitsDoNotShow : defX.bits[(2 : Fin 8)] ≠ "-" ∧ defX.bits[(0 : Fin 8)] = "-" := by decide
theorem test_witness_RegisterModelLaws : WfTable (demo [] []).regtab ∧ (0x1F : Byte).toNat ≤ 0x1F := by decide
theorem test_witness_WriteEchoDecodesToTheWrittenBits :
    WfTable (demo [] []).regtab ∧ (7 : Byte).toNat ≤ 7 ∧ (0x1F : Byte).toNat ≤ 0x1F ∧ TEcho ⟨0xFF, 0x5A⟩ (.frame ⟨0x00, 0x5A⟩) :=
  ⟨by decide, by decide, by decide, fun g h => by cases h; rfl⟩
theorem test_witness_EachKindHasItsOwnRaisers :
    WfTable (demo [] []).regtab ∧ (Instr.encrd 8 0).isRequest = true ∧ (Instr.lookup 0x20).isRequest = true ∧
      (Instr.bitname defX 8).isRequest = true ∧ (Instr.reserved 6).isRequest = true ∧
      goesOn (exec (.decrsp ⟨0, 0⟩) (demo [] [])) = true := by decide
theorem test_witness_BlockNeverDrivesTransportFailure : (Instr.reserved 6).isRequest = true := by decide
theorem test_witness_NoMemoryOfAnError : (Instr.lookup 0x0E).isRequest = true := by decide
theorem test_witness_ResponseDependsOnOperandsAndTable :
    (Instr.lookup 0x0E).isRequest = true ∧ (demo [] []).regtab = (blocked []).regtab := by decide
theorem test_witness_TableIsNeverWritten :
    goesOn (step (blocked [.failure])) = true ∧ goesOn (exec (.encwr 0 0x0E 1) (demo [] [])) = true := by decide
theorem test_witness_AdecRefinesLookup :
    adecSelect 0x1F 31 = true ∧ adecSelect 0x3F 31 = false ∧ WfTable (demo [] []).regtab := by decide
theorem test_witness_BmuxRefinesBitname : bmuxEnabled 7 = true ∧ bmuxEnabled 8 = false := by decide

/-- A line that presents a request, for the witnesses. -/
def lineEncrd (chip : Byte) : Line := { dst := some (varF 0), op := .encrd (.lit chip) (.lit 0x0E) }
theorem test_witness_StepRunsTheDecodedInstruction :
    (demo [lineEncrd 0] []).pending = none ∧ takeLine [lineEncrd 0] [] = some (lineEncrd 0, [], []) ∧
      presentLine [] (lineEncrd 0).op = some (encode (.encrd 0 0x0E)) := by decide
theorem test_witness_CallerKeepsTheResponse :
    ({ demo [] [] with resp := some (.error .reservedOp) }).pending = none ∧
      ({ demo [] [] with resp := some (.value 0xFF) }).pending = none ∧ (blocked []).pending = some ⟨0x8E, 0x00⟩ := by decide
theorem test_witness_PlacedWordRunsNext :
    decodeTableWord 8 7 = some (.reserved 7) ∧ decodeTableWord 16 0xFFFF = some (.frameRd 3 31 0xFF) := by decide
theorem test_witness_TransportAnswers :
    (blocked [.silent]).pending = some ⟨0x8E, 0x00⟩ ∧ (blocked [.frame ⟨0, 0xA0⟩]).answers = [.frame ⟨0, 0xA0⟩] ∧
      (blocked [.failure]).answers = [.failure] ∧ (blocked [.silent]).answers = [.silent] ∧ (blocked []).answers = [] := by decide
theorem test_witness_SilentTransportLeavesTheCallerStuck :
    (blocked [.silent, .silent, .failure]).pending = some ⟨0x8E, 0x00⟩ ∧
      (blocked [.silent, .silent, .failure]).answers = List.replicate (1 + 1) .silent ++ [.failure] := by decide
theorem test_witness_BlockedCallerRunsNothing : (blocked []).pending = some ⟨0x8E, 0x00⟩ ∧ (blocked []).awaiting ≠ some (varV 0) := by
  decide
theorem test_witness_ExchangesAreAtomicAndOrdered :
    goesOn (step (blocked [.failure])) = true ∧ sent (step (blocked [.silent])) = some ⟨0x8E, 0x00⟩ := by decide
theorem test_witness_OnlyTheCallerStartsAnExchange :
    (demo [{ dst := none, op := .xfer (.lit ⟨0xFF, 0x00⟩) }] []).pending = none ∧
      sent (step (demo [{ dst := none, op := .xfer (.lit ⟨0xFF, 0x00⟩) }] [])) = some ⟨0xFF, 0x00⟩ := by decide
theorem test_witness_StepStopsOnlyOnAnUnboundVariable :
    presentLine [] (.decrsp (.var (varG 0))) = none ∧ takeLine (demo [] []).current (demo [] []).agenda = none := by decide

/-- The invariant of a machine just built over the test table. -/
theorem test_witness_StepKeepsTheInvariant : Inv (demo [] []) ∧ goesOn (step (demo [] [])) = true :=
  ⟨⟨by decide, by decide, by decide, by decide, by decide, (fun h => by cases h), (fun _ => rfl), (fun _ h => by cases h), by decide⟩,
    by decide⟩
theorem test_witness_ResetHasTheInvariant : (powerUp (demoTable.map rawOf) []).isSome = true := by decide

theorem test_witness_ErrorEndsTheSequence :
    (demo [lineEncrd 8] []).pending = none ∧ takeLine [lineEncrd 8] [] = some (lineEncrd 8, [], []) ∧
      presentLine [] (lineEncrd 8).op = some (encode (.encrd 8 0x0E)) ∧
      shown (exec (decode (encode (.encrd 8 0x0E))) (demo [] [])) = some (.error .addressOutOfRange) := by decide
/-- The machines of the sequence witnesses: a sequence to run and the transport's answers given. -/
def readsByte : State := demo (rdreg 7 0x1F 0 ++ []) [.frame ⟨0, 0xA0⟩]
/-- A write of 0xFF to register 0x1F of chip 3. -/
def writesByte : State := demo (wrreg 3 0x1F 0xFF 0 ++ []) [.frame ⟨0, 0xFF⟩]
/-- A write whose exchange fails. -/
def writeFails : State := demo (wrreg 7 0x1F 0 0 ++ []) [.failure]
/-- The example of R185. -/
def readsBits : State := demo (rdbits 0 0x0E 0 ++ []) [.frame ⟨0, 0xA0⟩]
/-- A dump of chip 7 with all 32 answers. -/
def dumps : State := demo (dump 7 ++ []) ((List.replicate 32 (Frame.mk 0 1)).map XferAnswer.frame ++ [])
/-- A dump of chip 0 that fails at its second exchange. -/
def dumpFails : State := demo (dump 0 ++ []) ([Frame.mk 0 1].map XferAnswer.frame ++ .failure :: [])

theorem test_witness_RdregReadsTheByte :
    readsByte.pending = none ∧ readsByte.current = rdreg 7 0x1F 0 ++ [] ∧ readsByte.answers = .frame ⟨0, 0xA0⟩ :: [] ∧
      (7 : Byte).toNat ≤ 7 ∧ (0x1F : Byte).toNat ≤ 0x1F ∧ TCur 0xA0 (.frame ⟨0, 0xA0⟩) :=
  ⟨rfl, rfl, rfl, by decide, by decide, fun g h => by cases h; rfl⟩
theorem test_witness_WrregSendsTheWriteFrame :
    writesByte.pending = none ∧ writesByte.current = wrreg 3 0x1F 0xFF 0 ++ [] ∧ writesByte.answers = .frame ⟨0, 0xFF⟩ :: [] ∧
      (3 : Byte).toNat ≤ 7 ∧ (0x1F : Byte).toNat ≤ 0x1F ∧
      TEcho ⟨((3 : Byte) <<< 5) ||| 0x1F, 0xFF⟩ (.frame ⟨0, 0xFF⟩) :=
  ⟨rfl, rfl, rfl, by decide, by decide, fun g h => by cases h; rfl⟩
theorem test_witness_RegisterAccessFailsFast :
    (demo (rdreg 8 0 0 ++ []) []).pending = none ∧ (demo (rdreg 8 0 0 ++ []) []).current = rdreg 8 0 0 ++ [] ∧
      7 < (8 : Byte).toNat ∧ writeFails.pending = none ∧ writeFails.current = wrreg 7 0x1F 0 0 ++ [] ∧
      (7 : Byte).toNat ≤ 7 ∧ (0x1F : Byte).toNat ≤ 0x1F ∧ writeFails.answers = .failure :: [] ∧
      (⟨0xFF, 0⟩ : Frame) = ⟨((7 : Byte) <<< 5) ||| 0x1F, 0⟩ := by
  decide
/-- A read, and a write without its last line, whose exchange fails. -/
theorem test_witness_RegisterAccessFailsFast_other_forms :
    (demo (rdreg 7 0x1F 0 ++ []) [.failure]).pending = none ∧
      (demo (rdreg 7 0x1F 0 ++ []) [.failure]).current = rdreg 7 0x1F 0 ++ [] ∧
      (demo (rdreg 7 0x1F 0 ++ []) [.failure]).answers = .failure :: [] ∧
      (⟨0xFF, 0⟩ : Frame) = ⟨0x80#8 ||| ((7 : Byte) <<< 5) ||| 0x1F, 0⟩ ∧
      (demo (wrregSend 4 0 9 0 ++ []) [.failure]).pending = none ∧
      (demo (wrregSend 4 0 9 0 ++ []) [.failure]).current = wrregSend 4 0 9 0 ++ [] ∧
      (demo (wrregSend 4 0 9 0 ++ []) [.failure]).answers = .failure :: [] ∧
      (⟨0x80, 9⟩ : Frame) = ⟨((4 : Byte) <<< 5) ||| 0, 9⟩ ∧ (7 : Byte).toNat ≤ 7 ∧ (4 : Byte).toNat ≤ 7 ∧
      (0x1F : Byte).toNat ≤ 0x1F ∧ (0 : Byte).toNat ≤ 0x1F := by decide
theorem test_witness_RdbitsReadsAndDecodes :
    WfTable readsBits.regtab ∧ readsBits.pending = none ∧ readsBits.current = rdbits 0 0x0E 0 ++ [] ∧
      readsBits.answers = .frame ⟨0, 0xA0⟩ :: [] ∧ (0 : Byte).toNat ≤ 7 ∧ (0x0E : Byte).toNat ≤ 0x1F := by
  decide
theorem test_witness_RdbitsErrorPriority :
    WfTable (demo (rdbits 8 0x20 0 ++ []) []).regtab ∧ (demo (rdbits 8 0x20 0 ++ []) []).pending = none ∧
      (demo (rdbits 8 0x20 0 ++ []) []).current = rdbits 8 0x20 0 ++ [] ∧
      0x1F < (0x20 : Byte).toNat ∧ (0x1F : Byte).toNat ≤ 0x1F ∧ 7 < (8 : Byte).toNat := by decide
theorem test_witness_DumpReadsEveryRegister :
    WfTable dumps.regtab ∧ dumps.pending = none ∧ dumps.current = dump 7 ++ [] ∧ (List.replicate 32 (Frame.mk 0 1)).length = 32 ∧
      dumps.answers = (List.replicate 32 (Frame.mk 0 1)).map XferAnswer.frame ++ [] ∧ (7 : Byte).toNat ≤ 7 :=
  ⟨by decide, rfl, rfl, by decide, rfl, by decide⟩
theorem test_witness_DumpStopsAtTheFirstFailure :
    WfTable dumpFails.regtab ∧ dumpFails.pending = none ∧ dumpFails.current = dump 0 ++ [] ∧ [Frame.mk 0 1].length < 32 ∧
      dumpFails.answers = [Frame.mk 0 1].map XferAnswer.frame ++ .failure :: [] ∧ (0 : Byte).toNat ≤ 7 :=
  ⟨by decide, rfl, rfl, by decide, rfl, by decide⟩

theorem test_witness_WrregMayLeaveTheResponse :
    (demo (wrregSend 7 0x1F 0xFF 0 ++ []) [.frame ⟨0, 0⟩]).pending = none ∧
      (demo (wrregSend 7 0x1F 0xFF 0 ++ []) [.frame ⟨0, 0⟩]).current = wrregSend 7 0x1F 0xFF 0 ++ [] ∧
      (demo (wrregSend 7 0x1F 0xFF 0 ++ []) [.frame ⟨0, 0⟩]).answers = .frame ⟨0, 0⟩ :: [] ∧
      (7 : Byte).toNat ≤ 7 ∧ (0x1F : Byte).toNat ≤ 0x1F ∧ varBv 0 ≠ varF 0 ∧ varBv 0 ≠ varG 0 := by decide
theorem test_witness_ResultsShowWhileHeld :
    goesOn (step (demo [lineEncrd 8] [])) = true ∧ (demo [lineEncrd 8] []).pending = none ∧
      takeLine [lineEncrd 8] [] = some (lineEncrd 8, [], []) ∧
      presentLine [] (lineEncrd 8).op = some (encode (.encrd 8 0x0E)) := by decide

end Sys2Proof.Tests
end

section
/-! PROOFS. What decoding yields, what the meaning of a decoded request or frame does, and what a step of an unblocked caller
can do, each said once; and the statements of 00_scope.md, assembled from them. -/

namespace Sys2Proof

/-! ### Decoding -/

theorem decodeRequest_wf (r : Request) : (decodeRequest r).wf = true := by
  obtain ⟨op, chip, raddr, wdata, pos, frameIn, valueIn, defIn⟩ := r
  fin_cases op <;> rfl

theorem decodeFrame_wf (f : Frame) : (decodeFrame f).wf = true := by
  unfold decodeFrame
  split <;> rfl

/-- The decoder is total: whatever a caller presents is an instruction (R88, R92, R85). -/
theorem decode_wf (p : Presented) : (decode p).wf = true := by
  cases p with
  | request r => exact decodeRequest_wf r
  | frame f => exact decodeFrame_wf f

theorem decodeRequest_isRequest (r : Request) : (decodeRequest r).isRequest = true := by
  unfold decodeRequest
  split <;> rfl

/-- Put together again, the three fields of a command byte are the command byte (R82, R85). -/
theorem commandByte_of_fields (b : Byte) :
    commandByte (BitVec.ofBool b.msb) (b.extractLsb' 5 2) (b.extractLsb' 0 5) = b := by
  revert b
  decide

namespace Machine

/-! ### What a meaning does -/

/-- Every operation of the block answers at once, and all it does is drive one response (R20, R89). -/
theorem exec_of_isRequest {i : Instr} (h : i.isRequest = true) (s : State) : ∃ r, exec i s = .next (drive r s) := by
  cases i with
  | lookup raddr =>
    simp only [exec, execLookup, raise]
    split
    · exact ⟨_, rfl⟩
    · cases tableAt s.regtab raddr <;> exact ⟨_, rfl⟩
  | bitname d pos =>
    simp only [exec, execBitname, raise]
    split <;> exact ⟨_, rfl⟩
  | encrd chip raddr =>
    simp only [exec, execEncrd, raise]
    split <;> exact ⟨_, rfl⟩
  | encwr chip raddr wdata =>
    simp only [exec, execEncwr, raise]
    split <;> exact ⟨_, rfl⟩
  | decrsp f => exact ⟨_, rfl⟩
  | decbits v d => exact ⟨_, rfl⟩
  | reserved op => exact ⟨_, rfl⟩
  | frameRd c r d => cases h
  | frameWr c r v => cases h

/-- Both wire-level classes hand the transport the very frame presented (R85, R180). -/
theorem exec_decode_frame (f : Frame) (s : State) : exec (decode (.frame f)) s = startExchange f s := by
  have hcmd := commandByte_of_fields f.cmd
  cases hmsb : f.cmd.msb with
  | true =>
    rw [hmsb] at hcmd
    simp only [decode, decodeFrame, hmsb, if_true, exec, execFrameRd]
    exact congrArg (fun c => startExchange ⟨c, f.data⟩ s) hcmd
  | false =>
    rw [hmsb] at hcmd
    simp only [decode, decodeFrame, hmsb, Bool.false_eq_true, if_false, exec, execFrameWr]
    exact congrArg (fun c => startExchange ⟨c, f.data⟩ s) hcmd

/-- What executing what a caller presents can do: a request gets a response driven, a frame begins an exchange. -/
theorem exec_decode_next {p : Presented} {s t : State} (h : exec (decode p) s = .next t) :
    (∃ q r, p = .request q ∧ t = drive r s) ∨
      ∃ f, p = .frame f ∧ s.pending = none ∧ t = { s with resp := none, pending := some f } := by
  cases p with
  | request q =>
    obtain ⟨r, hr⟩ := exec_of_isRequest (decodeRequest_isRequest q) s
    exact .inl ⟨q, r, rfl, Host.Outcome.next.inj (h.symm.trans hr)⟩
  | frame f =>
    rw [exec_decode_frame] at h
    exact .inr ⟨f, rfl, startExchange_next.mp h⟩

/-! ### What the caller does after it -/

@[simp] theorem keepResponse_pending (dst : Option Var) (r : Response) (s : State) :
    (keepResponse dst r s).pending = s.pending := by
  cases r <;> simp [keepResponse]

@[simp] theorem keepResponse_resp (dst : Option Var) (r : Response) (s : State) : (keepResponse dst r s).resp = s.resp := by
  cases r <;> simp [keepResponse]

/-- The caller neither begins nor ends an exchange by keeping a result. -/
@[simp] theorem settle_pending_eq (dst : Option Var) (s : State) : (settle dst s).pending = s.pending := by
  unfold settle
  split
  · rfl
  · split
    · exact keepResponse_pending ..
    · rfl

/-- The result ports show the same before and after the caller has kept the result. -/
@[simp] theorem settle_resp_eq (dst : Option Var) (s : State) : (settle dst s).resp = s.resp := by
  unfold settle
  split
  · rfl
  · split
    · exact keepResponse_resp ..
    · rfl

theorem finishLine_eq_next {dst : Option Var} {o : Result} {t : State} :
    finishLine dst o = .next t ↔ ∃ u, o = .next u ∧ t = settle dst u := by
  cases o <;> simp [finishLine, eq_comm]

/-! ### The step of an unblocked caller -/

theorem runLine_unbound {l : Line} {s : State} (h : presentLine s.vars l.op = none) :
    runLine l s = .fault .unboundVariable := by
  simp [runLine, h]

theorem runLine_presented {l : Line} {s : State} {p : Presented} (h : presentLine s.vars l.op = some p) :
    runLine l s = finishLine l.dst (exec (decode p) s) := by
  simp [runLine, h]

theorem step_unbound {s : State} {l : Line} {rest : List Line} {more : List (List Line)}
    (hp : s.pending = none) (hl : takeLine s.current s.agenda = some (l, rest, more))
    (hv : presentLine s.vars l.op = none) : step s = .fault .unboundVariable :=
  (step_line hp hl).trans (runLine_unbound hv)

theorem step_presented {s : State} {l : Line} {rest : List Line} {more : List (List Line)} {p : Presented}
    (hp : s.pending = none) (hl : takeLine s.current s.agenda = some (l, rest, more))
    (hv : presentLine s.vars l.op = some p) :
    step s = finishLine l.dst (exec (decode p) { s with current := rest, agenda := more }) :=
  (step_line hp hl).trans (runLine_presented hv)

/-- What a step that goes on can do while no exchange is in progress: with no line left it takes the result off the ports, and
otherwise the caller settles what the meaning of its next line left. -/
theorem step_unblocked_next {s t : State} (hp : s.pending = none) (h : step s = .next t) :
    (takeLine s.current s.agenda = none ∧ t = release s) ∨
      ∃ l rest more p u, takeLine s.current s.agenda = some (l, rest, more) ∧ presentLine s.vars l.op = some p ∧
        exec (decode p) { s with current := rest, agenda := more } = .next u ∧ t = settle l.dst u := by
  cases hl : takeLine s.current s.agenda with
  | none =>
    rw [step_idle hp hl] at h
    exact .inl ⟨rfl, (Host.Outcome.next.inj h).symm⟩
  | some taken =>
    obtain ⟨l, rest, more⟩ := taken
    cases hv : presentLine s.vars l.op with
    | none => cases (step_unbound hp hl hv).symm.trans h
    | some p =>
      rw [step_presented hp hl hv] at h
      obtain ⟨u, hu, ht⟩ := finishLine_eq_next.mp h
      exact .inr ⟨l, rest, more, p, u, rfl, hv, hu, ht⟩

end Machine

/-! ### The statements of 00_scope.md -/

open Machine

/-- Settles O36: the decoder is total, and the step unfolds to the meaning of what the taken line presents. -/
theorem stepRunsTheDecodedInstruction : Obligations.StepRunsTheDecodedInstruction :=
  fun _ _ _ _ p hp hl hv => ⟨decode_wf p, step_presented hp hl hv⟩

/-- Settles O43: of all a step can do, only the meaning of a presented frame leaves an exchange in progress, and it begins by
taking the operation off the ports. -/
theorem onlyTheCallerStartsAnExchange : Obligations.OnlyTheCallerStartsAnExchange := by
  intro s t f hp hstep hf
  obtain ⟨-, rfl⟩ | ⟨l, rest, more, p, u, hl, hv, hu, rfl⟩ := step_unblocked_next hp hstep
  · cases hp.symm.trans hf
  · rw [settle_pending_eq] at hf
    rw [settle_resp_eq]
    obtain ⟨q, r, -, rfl⟩ | ⟨g, rfl, -, rfl⟩ := exec_decode_next hu
    · cases hp.symm.trans hf
    · cases hf
      exact ⟨rfl, l, rest, more, hl, hv⟩

end Sys2Proof
end

section
/-! PROOFS. What each clause of `WF_TABLE` says; construction and power-up; the table at reset; what the block answers to a request;
how each kind of step keeps the invariant; and the statements of 10_state.md, assembled from them. -/

namespace Sys2Proof

namespace Machine

/-! ### The clauses of `WF_TABLE` (R24) -/

theorem w1_iff (t : List RawDef) : w1 t = true ↔ t.length = 32 := by
  simp [w1]

theorem w2_iff (t : List RawDef) : w2 t = true ↔ ∀ e ∈ t, e.bits.length = 8 := by
  simp [w2]

theorem w3_iff (t : List RawDef) : w3 t = true ↔ ∀ e ∈ t, e.address ≤ 0x1F := by
  simp [w3]

theorem w4_iff (t : List RawDef) : w4 t = true ↔ t.Pairwise fun e e' => e.address ≠ e'.address := by
  simp [w4, List.Nodup, List.pairwise_map]

theorem w5_iff (t : List RawDef) : w5 t = true ↔ ∀ a ≤ 0x1F, ∃ e ∈ t, e.address = a := by
  simp [w5, Nat.lt_succ_iff]

/-- W6 speaks of the places 0..31, which under W1 are all places. -/
theorem w6_iff {t : List RawDef} (hlen : t.length = 32) :
    w6 t = true ↔ ∀ i (h : i < t.length), t[i].address = i := by
  simp only [w6, List.all_eq_true, List.mem_range, beq_iff_eq, hlen]
  refine forall₂_congr fun i hi => ?_
  rw [List.getElem?_eq_getElem (hlen ▸ hi), Option.map_some, Option.some_inj]

theorem namesDistinct_iff (bits : List Name) :
    namesDistinct bits = true ↔ bits.Pairwise fun n n' => n = "-" ∨ n' = "-" ∨ n ≠ n' := by
  simp only [namesDistinct, decide_eq_true_eq, List.Nodup, List.pairwise_filter, isReserved, reservedMark]
  refine List.Pairwise.iff fun n n' => ?_
  by_cases hn : n = "-" <;> by_cases hn' : n' = "-" <;> simp [hn, hn']

theorem w7_iff (t : List RawDef) :
    w7 t = true ↔ ∀ e ∈ t, e.bits.Pairwise fun n n' => n = "-" ∨ n' = "-" ∨ n ≠ n' := by
  simp [w7, namesDistinct_iff]

/-- W8 fixes the row of R26 wherever its address stands. -/
theorem w8_iff (t : List RawDef) : w8 t = true ↔ ∀ e ∈ t, e.address = 0x0E → e = rawOf ledCntrl := by
  simp only [w8, List.all_eq_true, Bool.or_eq_true, bne_iff_ne, beq_iff_eq, imp_iff_not_or, ne_eq]

theorem eq_rawOf_ledCntrl_iff {e : RawDef} (h : e.address = 0x0E) :
    e = rawOf ledCntrl ↔ e.name = "LEDCntrl" ∧
      e.bits = ["LEDEn2B", "RxErrEnB", "LEDEn1B", "RxRdyEnB", "LEDEn2A", "RxErrEnA", "LEDEn1A", "RxRdyEnA"] := by
  obtain ⟨address, name, bits⟩ := e
  subst h
  simp [rawOf, ledCntrl]

theorem wfTable_iff (t : List RawDef) :
    wfTable t = true ↔ w1 t = true ∧ w2 t = true ∧ w3 t = true ∧ w4 t = true ∧ w5 t = true ∧ w6 t = true ∧ w7 t = true ∧
      w8 t = true := by
  simp only [wfTable, Bool.and_eq_true, and_assoc]

/-- The pigeonhole remark of R24: 32 different addresses among 32 are all of them. -/
theorem w5_of_w1_w3_w4 {t : List RawDef} (h1 : w1 t = true) (h3 : w3 t = true) (h4 : w4 t = true) : w5 t = true := by
  have hlen : (t.map RawDef.address).length = 32 := by rw [List.length_map, (w1_iff t).mp h1]
  have hnodup : (t.map RawDef.address).Nodup := List.pairwise_map.mpr ((w4_iff t).mp h4)
  have hsub : t.map RawDef.address ⊆ List.range 32 := by
    intro a ha
    obtain ⟨e, he, rfl⟩ := List.mem_map.mp ha
    exact List.mem_range.mpr (Nat.lt_succ_of_le ((w3_iff t).mp h3 e he))
  have hperm : (t.map RawDef.address).Perm (List.range 32) :=
    (List.subperm_of_subset hnodup hsub).perm_of_length_le (by simp [hlen])
  refine (w5_iff t).mpr fun a ha => ?_
  exact List.mem_map.mp (hperm.mem_iff.mpr (List.mem_range.mpr (Nat.lt_succ_of_le ha)))

/-! ### Construction and power-up (R25, R241) -/

/-- On data that passed W2 and W3, sealing cuts nothing and fills nothing in. -/
theorem rawOf_sealDef {r : RawDef} (hbits : r.bits.length = 8) (haddr : r.address ≤ 0x1F) : rawOf (sealDef r) = r := by
  obtain ⟨address, name, bits⟩ := r
  have ha : address % 32 = address := Nat.mod_eq_of_lt (Nat.lt_succ_of_le haddr)
  match bits, hbits with
  | [_, _, _, _, _, _, _, _], _ => simp [rawOf, sealDef, ha]

theorem map_rawOf_map_sealDef {raw : List RawDef} (h : wfTable raw = true) : (raw.map sealDef).map rawOf = raw := by
  obtain ⟨-, h2, h3, -⟩ := (wfTable_iff raw).mp h
  rw [List.map_map]
  refine (List.map_congr_left fun r hr => ?_).trans (List.map_id raw)
  exact rawOf_sealDef ((w2_iff raw).mp h2 r hr) ((w3_iff raw).mp h3 r hr)

theorem rawOf_injective : Function.Injective rawOf := by
  rintro ⟨a, n, b⟩ ⟨a', n', b'⟩ h
  simp only [rawOf, RawDef.mk.injEq, Vector.toList_inj, BitVec.toNat_inj] at h
  obtain ⟨rfl, rfl, rfl⟩ := h
  rfl

/-- Power-up yields a machine exactly for a valid table, and it is the initial state over the sealed table. -/
theorem powerUp_eq_some {raw : List RawDef} {answers : List XferAnswer} {s : State} :
    powerUp raw answers = some s ↔ wfTable raw = true ∧ s = initialState (raw.map sealDef) answers := by
  cases h : wfTable raw <;> simp [powerUp, construct, h, eq_comm]

theorem powerUp_eq_none {raw : List RawDef} {answers : List XferAnswer} :
    powerUp raw answers = none ↔ wfTable raw = false := by
  simp [powerUp, construct]

/-! ### What a valid table answers -/

/-- Under `WF_TABLE` every address of the map finds an entry (W5). -/
theorem tableAt_of_wf {t : List RegisterDef} {a : Byte} (h : WfTable t) (ha : a.toNat ≤ 0x1F) :
    ∃ d, tableAt t a = some d ∧ d ∈ t ∧ d.address.toNat = a.toNat := by
  obtain ⟨-, -, -, -, h5, -⟩ := (wfTable_iff _).mp h
  obtain ⟨e, he, hea⟩ := (w5_iff _).mp h5 _ ha
  obtain ⟨d, hd, rfl⟩ := List.mem_map.mp he
  cases hf : tableAt t a with
  | none => exact absurd hea (tableAt_none.mp hf d hd)
  | some d' => exact ⟨d', rfl, tableAt_some hf⟩

/-- Under `WF_TABLE` the entry at 0x0E is the row of R26 (W8). -/
theorem eq_ledCntrl_of_wf {t : List RegisterDef} {d : RegisterDef} (h : WfTable t) (hd : d ∈ t) (ha : d.address.toNat = 0x0E) :
    d = ledCntrl := by
  obtain ⟨-, -, -, -, -, -, -, h8⟩ := (wfTable_iff _).mp h
  exact rawOf_injective ((w8_iff _).mp h8 _ (List.mem_map_of_mem hd) ha)

theorem execLookup_of_tableAt {s : State} {a : Byte} {d : RegisterDef} (ha : a.toNat ≤ 0x1F) (h : tableAt s.regtab a = some d) :
    execLookup a s = .next (drive (.definition d) s) := by
  have hr : raddrOutOfRange a = false := by simpa [raddrOutOfRange] using ha
  simp [execLookup, hr, h]

/-! ### The table at reset (log entry 1) -/

theorem statusAddress_lt : statusAddress < 32 := by
  unfold statusAddress
  split
  · decide
  · exact Config.freeStatusAddress.isLt

theorem statusAddress_ne_ledCntrl : statusAddress ≠ 0x0E := by
  unfold statusAddress
  split
  · decide
  · exact fun h => absurd (BitVec.eq_of_toNat_eq h) ‹_›

theorem resetRow_address {a : Nat} (h : a < 32) : (resetRow a).address.toNat = a := by
  unfold resetRow
  split
  · subst_vars; rfl
  · exact Nat.mod_eq_of_lt h

theorem resetRow_statusAddress_name : (resetRow statusAddress).name = "Status" := by
  simp [resetRow, statusAddress_ne_ledCntrl]

/-- What replaces repeated names passes W7 itself: eight reserved positions (R27). -/
theorem namesDistinct_passW7 (bits : Vector Name 8) : namesDistinct (passW7 bits).toList = true := by
  unfold passW7
  split
  · assumption
  · decide

theorem namesDistinct_resetRow (a : Nat) : namesDistinct (resetRow a).bits.toList = true := by
  unfold resetRow
  split
  · decide
  · exact namesDistinct_passW7 _

theorem mem_map_rawOf_resetTable {e : RawDef} : e ∈ resetTable.map rawOf ↔ ∃ a < 32, rawOf (resetRow a) = e := by
  simp [resetTable]

/-- Row by row, the addresses of the reset table are 0x00..0x1F in order. -/
theorem resetTable_addresses : (resetTable.map rawOf).map RawDef.address = List.range 32 := by
  rw [resetTable, List.map_map, List.map_map]
  refine (List.map_congr_left fun a ha => ?_).trans (List.map_id _)
  exact resetRow_address (List.mem_range.mp ha)

theorem resetTable_wf : WfTable resetTable := by
  have h1 : w1 (resetTable.map rawOf) = true := by simp [w1_iff, resetTable]
  have h3 : w3 (resetTable.map rawOf) = true := by
    refine (w3_iff _).mpr fun e he => ?_
    have hmem : e.address ∈ List.range 32 := resetTable_addresses ▸ List.mem_map_of_mem he
    exact Nat.le_of_lt_succ (List.mem_range.mp hmem)
  have h4 : w4 (resetTable.map rawOf) = true := by
    rw [w4, resetTable_addresses]
    decide
  refine (wfTable_iff _).mpr ⟨h1, ?w2, h3, h4, w5_of_w1_w3_w4 h1 h3 h4, ?w6, ?w7, ?w8⟩
  case w2 =>
    refine (w2_iff _).mpr fun e he => ?_
    obtain ⟨a, -, rfl⟩ := mem_map_rawOf_resetTable.mp he
    exact Vector.length_toList
  case w6 =>
    rw [w6]
    simp only [← List.getElem?_map, resetTable_addresses]
    decide
  case w7 =>
    refine List.all_eq_true.mpr fun e he => ?_
    obtain ⟨a, -, rfl⟩ := mem_map_rawOf_resetTable.mp he
    exact namesDistinct_resetRow a
  case w8 =>
    refine (w8_iff _).mpr fun e he h14 => ?_
    obtain ⟨a, ha, rfl⟩ := mem_map_rawOf_resetTable.mp he
    obtain rfl : a = 0x0E := (resetRow_address ha).symm.trans h14
    rfl

/-! ### What the block answers -/

/-- A request's response is fixed by the request and the table, whatever else the state holds, and is never `TransportFailure`
(R20, R200). -/
theorem exists_response {i : Instr} (h : i.isRequest = true) (t : List RegisterDef) :
    ∃ r, r ≠ .error .transportFailure ∧ ∀ s : State, s.regtab = t → exec i s = .next (drive r s) := by
  cases i with
  | lookup raddr =>
    by_cases hr : raddrOutOfRange raddr = true
    · exact ⟨.error .unknownRegister, by simp, fun s _ => by simp [exec, execLookup, hr, raise]⟩
    · cases ht : tableAt t raddr with
      | none => exact ⟨.error .unknownRegister, by simp, fun s hs => by simp [exec, execLookup, hr, hs, ht, raise]⟩
      | some d => exact ⟨.definition d, by simp, fun s hs => by simp [exec, execLookup, hr, hs, ht]⟩
  | bitname d pos =>
    by_cases hp : pos.toNat < 8
    · exact ⟨.name d.bits[pos.toNat], by simp, fun s _ => by simp [exec, execBitname, hp]⟩
    · exact ⟨.error .invalidBitPosition, by simp, fun s _ => by simp [exec, execBitname, hp, raise]⟩
  | encrd chip raddr =>
    cases ha : addressOutOfRange chip raddr with
    | true => exact ⟨.error .addressOutOfRange, by simp, fun s _ => by simp [exec, execEncrd, ha, raise]⟩
    | false => exact ⟨.frame (readFrame chip raddr), by simp, fun s _ => by simp [exec, execEncrd, ha]⟩
  | encwr chip raddr wdata =>
    cases ha : addressOutOfRange chip raddr with
    | true => exact ⟨.error .addressOutOfRange, by simp, fun s _ => by simp [exec, execEncwr, ha, raise]⟩
    | false => exact ⟨.frame (writeFrame chip raddr wdata), by simp, fun s _ => by simp [exec, execEncwr, ha]⟩
  | decrsp f => exact ⟨.value f.data, by simp, fun _ _ => rfl⟩
  | decbits v d => exact ⟨.lanes (lanesOf v d), by simp, fun _ _ => rfl⟩
  | reserved op => exact ⟨.error .reservedOp, by simp, fun _ _ => rfl⟩
  | frameRd c r d => cases h
  | frameWr c r v => cases h

/-- No operation of the block drives `TransportFailure` (R200, R201). -/
theorem response_ne_transportFailure {i : Instr} {s t : State} (h : i.isRequest = true) (hx : exec i s = .next t) :
    t.resp ≠ some (.error .transportFailure) := by
  obtain ⟨r, hr, hexec⟩ := exists_response h s.regtab
  cases hx.symm.trans (hexec s rfl)
  simpa using hr

/-! ### What the caller keeps -/

/-- The caller keeps a result in its variable, or ends the sequence with the error (R187). -/
theorem keepResponse_cases (r : Response) :
    (∃ k, r = .error k ∧ ∀ dst s, keepResponse dst r s = endSequence k s) ∨
      ∃ v, ∀ dst s, keepResponse dst r s = bindDst dst v { s with outcome := none } := by
  cases r with
  | error k => exact .inl ⟨k, rfl, fun _ _ => rfl⟩
  | definition d => exact .inr ⟨.definition d, fun _ _ => rfl⟩
  | name n => exact .inr ⟨.name n, fun _ _ => rfl⟩
  | frame f => exact .inr ⟨.frame f, fun _ _ => rfl⟩
  | value v => exact .inr ⟨.byte v, fun _ _ => rfl⟩
  | lanes l => exact .inr ⟨.bits (bitListOf l), fun _ _ => rfl⟩

/-- Keeping a value keeps one entry a variable. -/
theorem bindDst_keys_nodup {s : State} (h : (s.vars.map Prod.fst).Nodup) (dst : Option Var) (v : Value) :
    ((bindDst dst v s).vars.map Prod.fst).Nodup := by
  cases dst with
  | none => exact h
  | some x => exact bind_keys_nodup h x v

end Machine

/-! ### How each kind of step keeps the invariant -/

open Machine

/-- While no error has ended the last sequence, the clauses about its end hold of themselves. -/
theorem Inv.of_outcome_none {s : State} (table : WfTable s.regtab) (blockKind : s.resp ≠ some (.error .transportFailure))
    (varsOnce : (s.vars.map Prod.fst).Nodup) (waits : s.pending = none → s.awaiting = none)
    (quiet : s.pending ≠ none → s.resp = none) (h : s.outcome = none) : Inv s where
  table := table
  blockKind := blockKind
  varsOnce := varsOnce
  waits := waits
  running _ := h
  failure hf := by cases h.symm.trans hf
  quiet := quiet
  blamed _ hk := by cases h.symm.trans hk
  ended he := absurd h he

theorem inv_initialState {t : List RegisterDef} (h : WfTable t) (answers : List XferAnswer) : Inv (initialState t answers) :=
  .of_outcome_none h (by simp) (by simp) (by simp) (by simp) (by simp)

/-- A caller with no line left takes its operands away, and with them the result that named its last error (R250). -/
theorem inv_release {s : State} (h : Inv s) (hl : takeLine s.current s.agenda = none) : Inv (release s) where
  table := h.table
  blockKind := by simp
  varsOnce := h.varsOnce
  waits := h.waits
  running := h.running
  failure := h.failure
  quiet _ := rfl
  blamed _ _ _ := .inr ⟨rfl, hl⟩
  ended := h.ended

/-- Whatever the transport answers to a blocked caller, the invariant is kept: a frame is bound, a failure is on record and ends
the sequence, silence changes nothing of it. -/
theorem inv_answerExchange {s : State} {f : Frame} (h : Inv s) (hp : s.pending = some f) : Inv (answerExchange f s) := by
  have ho : s.outcome = none := h.running (by simp [hp])
  unfold answerExchange
  cases nextAnswer f s with
  | frame g =>
    exact .of_outcome_none (by simpa using h.table) (by simp) (bindDst_keys_nodup (by simpa using h.varsOnce) _ _)
      (by simp) (by simp) (by simpa using ho)
  | silent => exact .of_outcome_none h.table (by simp) h.varsOnce (by simp [hp]) (by simp) ho
  | failure =>
    exact {
      table := h.table
      blockKind := by simp
      varsOnce := h.varsOnce
      waits := by simp
      running := by simp
      failure := fun _ => ⟨⟨f, none⟩, by simp, rfl⟩
      quiet := by simp
      blamed := fun k hk hne => absurd (Option.some.inj hk).symm hne
      ended := fun _ => rfl }

/-- The caller keeps the response to a request: a result goes to its variable, an error that shows is the sequence's outcome. -/
theorem inv_keepResponse {s : State} {r : Response} (dst : Option Var) (table : WfTable s.regtab)
    (varsOnce : (s.vars.map Prod.fst).Nodup) (hp : s.pending = none) (hw : s.awaiting = none) (hr : s.resp = some r)
    (hk : r ≠ .error .transportFailure) : Inv (keepResponse dst r s) := by
  obtain ⟨k, rfl, heq⟩ | ⟨v, heq⟩ := keepResponse_cases r
  · rw [heq]
    exact {
      table := table
      blockKind := by simpa [hr] using hk
      varsOnce := varsOnce
      waits := fun _ => hw
      running := fun hne => absurd hp hne
      failure := fun hf => absurd (congrArg Response.error (Option.some.inj hf)) hk
      quiet := fun hne => absurd hp hne
      blamed := fun k' hk' _ => .inl (by simpa [hr] using hk')
      ended := fun _ => rfl }
  · rw [heq]
    exact .of_outcome_none (by simpa using table) (by simpa [hr] using hk)
      (bindDst_keys_nodup (s := { s with outcome := none }) varsOnce _ _)
      (by simpa using fun _ => hw) (by simp [hp]) (by simp)

/-- A presented line meets the invariant whatever the outcome before it, since its own takes that place: the caller keeps the
response to a request, or waits for the answer to the frame it sent. -/
theorem inv_settle_exec {s u : State} {p : Presented} (dst : Option Var) (hu : exec (decode p) s = .next u)
    (table : WfTable s.regtab) (varsOnce : (s.vars.map Prod.fst).Nodup) (hp : s.pending = none) (hw : s.awaiting = none) :
    Inv (settle dst u) := by
  obtain ⟨q, r, rfl, rfl⟩ | ⟨f, -, -, rfl⟩ := exec_decode_next hu
  · have hk := response_ne_transportFailure (decodeRequest_isRequest q) hu
    rw [settle_response (s := drive r s) hp rfl]
    exact inv_keepResponse dst table varsOnce hp hw rfl (by simpa using hk)
  · rw [settle_pending rfl]
    exact .of_outcome_none table (by simp) varsOnce (by simp) (by simp) rfl

/-! ### The statements of 10_state.md -/

/-- Settles O45, over what a step can do: the transport is asked, the caller is idle, or a line is presented. -/
theorem stepKeepsTheInvariant : Obligations.StepKeepsTheInvariant := by
  intro s t h hstep
  cases hp : s.pending with
  | some f =>
    cases (step_blocked hp).symm.trans hstep
    exact inv_answerExchange h hp
  | none =>
    obtain ⟨hl, rfl⟩ | ⟨l, rest, more, p, u, -, -, hu, rfl⟩ := step_unblocked_next hp hstep
    · exact inv_release h hl
    · exact inv_settle_exec l.dst hu h.table h.varsOnce hp (h.waits hp)

/-- Settles O8, clause by clause; only W6 needs another, W1. -/
theorem wfTableIsW1ToW8 : Obligations.WfTableIsW1ToW8 := by
  intro t
  rw [wfTable_iff, w1_iff]
  refine and_congr_right fun hlen => ?_
  rw [w2_iff, w3_iff, w4_iff, w5_iff, w6_iff hlen, w7_iff, w8_iff]
  have h8 : (∀ e ∈ t, e.address = 0x0E → e = rawOf ledCntrl) ↔ _ :=
    forall₃_congr fun e _ ha => eq_rawOf_ledCntrl_iff ha
  rw [h8]

/-- Settles O9, by the pigeonhole principle. -/
theorem distinctAddressesFillTheTable : Obligations.DistinctAddressesFillTheTable :=
  fun _ => w5_of_w1_w3_w4

/-- Settles O10: sealing a table that passed the check loses nothing of it. -/
theorem onlyValidTablesYieldABlock : Obligations.OnlyValidTablesYieldABlock :=
  fun _ _ => ⟨fun h => ⟨_, powerUp_eq_some.mpr ⟨h, rfl⟩, map_rawOf_map_sealDef h, rfl⟩, powerUp_eq_none.mpr⟩

/-- Settles O11: the two places with one name break W7. -/
theorem repeatedBitNameIsRefused : Obligations.RepeatedBitNameIsRefused := by
  intro raw e i j n answers he hij hi hj hn
  rw [powerUp_eq_none, ← Bool.not_eq_true]
  intro hwf
  obtain ⟨-, -, -, -, -, -, h7, -⟩ := (wfTable_iff raw).mp hwf
  have hpair := List.pairwise_iff_getElem.mp ((w7_iff raw).mp h7 e he)
  obtain ⟨hil, hi⟩ := List.getElem?_eq_some_iff.mp hi
  obtain ⟨hjl, hj⟩ := List.getElem?_eq_some_iff.mp hj
  have hdiffer : n = "-" ∨ n = "-" ∨ n ≠ n := by simpa only [hi, hj] using hpair i j hil hjl hij
  simp [hn] at hdiffer

/-- Settles O14: W5 gives an entry at 0x0E, and W8 says which. -/
theorem ledCntrlIsAnsweredAt0x0E : Obligations.LedCntrlIsAnsweredAt0x0E := by
  intro s hwf
  obtain ⟨d, hfind, hd, ha⟩ := tableAt_of_wf (a := 0x0E) hwf (by decide)
  obtain rfl := eq_ledCntrl_of_wf hwf hd ha
  exact execLookup_of_tableAt (by decide) hfind

/-- Settles O32: one response serves every state over the same table. -/
theorem responseDependsOnOperandsAndTable : Obligations.ResponseDependsOnOperandsAndTable := by
  intro i s s' hi htab
  obtain ⟨r, -, hr⟩ := exists_response hi s.regtab
  exact ⟨r, hr s rfl, hr s' htab.symm⟩

/-- Settles O12: the row at `statusAddress`. -/
theorem resetTableHasStatus : Obligations.ResetTableHasStatus := by
  refine ⟨resetRow statusAddress, List.mem_map_of_mem (List.mem_range.mpr statusAddress_lt), resetRow_statusAddress_name,
    fun h => ?_⟩
  exact statusAddress_ne_ledCntrl ((resetRow_address statusAddress_lt).symm.trans (congrArg BitVec.toNat h))

/-- Settles O46: both tables, the one at reset and the one sealed at power-up, satisfy `WF_TABLE`. -/
theorem resetHasTheInvariant : Obligations.ResetHasTheInvariant := by
  refine ⟨inv_initialState resetTable_wf [], fun raw answers s h => ?_⟩
  obtain ⟨hwf, rfl⟩ := powerUp_eq_some.mp h
  exact inv_initialState ((congrArg wfTable (map_rawOf_map_sealDef hwf)).trans hwf) answers

end Sys2Proof
end

section
/-! PROOFS. What the meaning of any instruction, the caller's keeping of a result, and the transport's answer can do, each said
once; what every step leaves unchanged, and when it stops; and the statements of 20_memory.md, assembled from them. -/

namespace Sys2Proof

namespace Machine

/-! ### What a meaning does, and when it goes on -/

/-- The instructions that are no request are the two wire-level classes; each hands one frame to the transport (R85, R180). -/
theorem exec_of_not_isRequest {i : Instr} (h : i.isRequest ≠ true) : ∃ f, ∀ s, exec i s = startExchange f s := by
  cases i with
  | frameRd c r d => exact ⟨_, fun _ => rfl⟩
  | frameWr c r v => exact ⟨_, fun _ => rfl⟩
  | lookup | bitname | encrd | encwr | decrsp | decbits | reserved => exact absurd rfl h

/-- All that a meaning changes: it drives a response, or begins an exchange where none is in progress (R20, R180). -/
theorem exec_next {i : Instr} {s t : State} (h : exec i s = .next t) :
    (∃ r, t = drive r s) ∨ ∃ f, s.pending = none ∧ t = { s with resp := none, pending := some f } := by
  by_cases hi : i.isRequest = true
  · obtain ⟨r, hr⟩ := exec_of_isRequest hi s
    exact .inl ⟨r, Host.Outcome.next.inj (h.symm.trans hr)⟩
  · obtain ⟨f, hf⟩ := exec_of_not_isRequest hi
    exact .inr ⟨f, startExchange_next.mp ((hf s).symm.trans h)⟩

/-- Only an exchange in progress stops a meaning, by its refusal of a second one (R243; log entry 8). -/
theorem exec_unblocked (i : Instr) {s : State} (hp : s.pending = none) : ∃ t, exec i s = .next t := by
  by_cases hi : i.isRequest = true
  · obtain ⟨r, hr⟩ := exec_of_isRequest hi s
    exact ⟨_, hr⟩
  · obtain ⟨f, hf⟩ := exec_of_not_isRequest hi
    exact ⟨_, (hf s).trans (startExchange_next.mpr ⟨hp, rfl⟩)⟩

theorem exec_regtab {i : Instr} {s t : State} (h : exec i s = .next t) : t.regtab = s.regtab := by
  obtain ⟨r, rfl⟩ | ⟨f, -, rfl⟩ := exec_next h <;> rfl

theorem exec_bus {i : Instr} {s t : State} (h : exec i s = .next t) : t.bus = s.bus := by
  obtain ⟨r, rfl⟩ | ⟨f, -, rfl⟩ := exec_next h <;> rfl

/-! ### What the caller leaves unchanged in keeping a result -/

@[simp] theorem keepResponse_regtab (dst : Option Var) (r : Response) (s : State) :
    (keepResponse dst r s).regtab = s.regtab := by
  obtain ⟨k, -, heq⟩ | ⟨v, heq⟩ := keepResponse_cases r <;> simp [heq]

@[simp] theorem keepResponse_bus (dst : Option Var) (r : Response) (s : State) : (keepResponse dst r s).bus = s.bus := by
  obtain ⟨k, -, heq⟩ | ⟨v, heq⟩ := keepResponse_cases r <;> simp [heq]

/-- After a meaning the caller waits for the exchange it began, keeps the response shown, or has nothing to keep. -/
theorem settle_cases (dst : Option Var) (s : State) :
    settle dst s = { s with awaiting := dst, outcome := none } ∨ (∃ r, settle dst s = keepResponse dst r s) ∨
      settle dst s = s := by
  unfold settle
  split
  · exact .inl rfl
  · split
    · exact .inr (.inl ⟨_, rfl⟩)
    · exact .inr (.inr rfl)

@[simp] theorem settle_regtab (dst : Option Var) (s : State) : (settle dst s).regtab = s.regtab := by
  obtain heq | ⟨r, heq⟩ | heq := settle_cases dst s <;> simp [heq]

@[simp] theorem settle_bus (dst : Option Var) (s : State) : (settle dst s).bus = s.bus := by
  obtain heq | ⟨r, heq⟩ | heq := settle_cases dst s <;> simp [heq]

/-! ### What the transport's answer does -/

/-- The exchange ends with a frame for the waiting variable or with the end of the sequence, or it stays in progress (R180, R206). -/
theorem answerExchange_cases (f : Frame) (s : State) :
    (∃ g, answerExchange f s =
      bindDst s.awaiting (.frame g) (closeExchange f (some g) (consumeAnswer (release s)))) ∨
    answerExchange f s = endSequence .transportFailure (closeExchange f none (consumeAnswer (release s))) ∨
    answerExchange f s = consumeAnswer (release s) := by
  unfold answerExchange
  cases nextAnswer f s with
  | frame g => exact .inl ⟨g, rfl⟩
  | failure => exact .inr (.inl rfl)
  | silent => exact .inr (.inr rfl)

@[simp] theorem answerExchange_regtab (f : Frame) (s : State) : (answerExchange f s).regtab = s.regtab := by
  obtain ⟨g, heq⟩ | heq | heq := answerExchange_cases f s <;> simp [heq]

@[simp] theorem answerExchange_resp (f : Frame) (s : State) : (answerExchange f s).resp = none := by
  obtain ⟨g, heq⟩ | heq | heq := answerExchange_cases f s <;> simp [heq]

@[simp] theorem answerExchange_agenda (f : Frame) (s : State) : (answerExchange f s).agenda = s.agenda := by
  obtain ⟨g, heq⟩ | heq | heq := answerExchange_cases f s <;> simp [heq]

theorem answerExchange_current (f : Frame) (s : State) :
    (answerExchange f s).current = s.current ∨ (answerExchange f s).current = [] := by
  obtain ⟨g, heq⟩ | heq | heq := answerExchange_cases f s <;> simp [heq]

/-- An exchange ends exactly by going on the record, and stays whole in progress until then (R57). -/
theorem answerExchange_record (f : Frame) (s : State) :
    ((answerExchange f s).pending = s.pending ∧ (answerExchange f s).bus = s.bus) ∨
      ∃ got, (answerExchange f s).pending = none ∧ (answerExchange f s).bus = s.bus ++ [{ sent := f, got := got }] := by
  obtain ⟨g, heq⟩ | heq | heq := answerExchange_cases f s
  · exact .inr ⟨some g, by simp [heq]⟩
  · exact .inr ⟨none, by simp [heq]⟩
  · exact .inl (by simp [heq])

theorem lookupVar_bindDst_other {dst : Option Var} {x : Var} (h : dst ≠ some x) (v : Value) (s : State) :
    lookupVar (bindDst dst v s).vars x = lookupVar s.vars x := by
  cases dst with
  | none => rfl
  | some y => exact lookupVar_bind_other (fun hyx => h (congrArg some hyx)) v s.vars

theorem lookupVar_answerExchange_other {x : Var} {s : State} (h : s.awaiting ≠ some x) (f : Frame) :
    lookupVar (answerExchange f s).vars x = lookupVar s.vars x := by
  obtain ⟨g, heq⟩ | heq | heq := answerExchange_cases f s
  · simp [heq, lookupVar_bindDst_other h]
  · simp [heq]
  · simp [heq]

/-! ### What every step leaves unchanged, and when it stops -/

/-- Without an exchange in progress nothing goes on the record. -/
theorem step_unblocked_bus {s t : State} (hp : s.pending = none) (h : step s = .next t) : t.bus = s.bus := by
  obtain ⟨-, rfl⟩ | ⟨l, rest, more, p, u, -, -, hu, rfl⟩ := step_unblocked_next hp h
  · rfl
  · rw [settle_bus, exec_bus hu]

theorem step_regtab {s t : State} (h : step s = .next t) : t.regtab = s.regtab := by
  cases hp : s.pending with
  | some f =>
    cases (step_blocked hp).symm.trans h
    exact answerExchange_regtab f s
  | none =>
    obtain ⟨-, rfl⟩ | ⟨l, rest, more, p, u, -, -, hu, rfl⟩ := step_unblocked_next hp h
    · rfl
    · rw [settle_regtab, exec_regtab hu]

/-- A step goes on unless its line reads an unbound variable. -/
theorem goesOn_or_unbound (s : State) :
    GoesOn s ∨ (s.pending = none ∧
      ∃ l rest more, takeLine s.current s.agenda = some (l, rest, more) ∧ presentLine s.vars l.op = none) := by
  cases hp : s.pending with
  | some f => exact .inl ⟨_, step_blocked hp⟩
  | none =>
    cases hl : takeLine s.current s.agenda with
    | none => exact .inl ⟨_, step_idle hp hl⟩
    | some taken =>
      obtain ⟨l, rest, more⟩ := taken
      cases hv : presentLine s.vars l.op with
      | none => exact .inr ⟨rfl, l, rest, more, rfl, hv⟩
      | some p =>
        obtain ⟨u, hu⟩ := exec_unblocked (decode p) (s := { s with current := rest, agenda := more }) hp
        exact .inl ⟨_, (step_presented hp hl hv).trans (finishLine_eq_next.mpr ⟨u, hu, rfl⟩)⟩

end Machine

/-! ### The statements of 20_memory.md -/

open Machine

/-- Settles O33: no event writes the table, and a `LOOKUP` answers by the table alone. -/
theorem tableIsNeverWritten : Obligations.TableIsNeverWritten :=
  ⟨fun _ _ => step_regtab, fun _ _ _ => exec_regtab,
    fun s t a h => responseDependsOnOperandsAndTable (.lookup a) s t rfl (step_regtab h).symm⟩

/-- Settles O41: a blocked caller's step is the transport's answer and nothing else. -/
theorem blockedCallerRunsNothing : Obligations.BlockedCallerRunsNothing :=
  fun s f hp => ⟨answerExchange f s, step_blocked hp, answerExchange_resp f s, answerExchange_agenda f s,
    answerExchange_regtab f s, answerExchange_current f s, fun _ h => lookupVar_answerExchange_other h f⟩

/-- Settles O42: only the answer to the exchange in progress writes the record, and it begins no other. -/
theorem exchangesAreAtomicAndOrdered : Obligations.ExchangesAreAtomicAndOrdered := by
  intro s t h
  cases hp : s.pending with
  | none => exact ⟨.inl (step_unblocked_bus hp h), fun _ _ => .inl rfl⟩
  | some f =>
    cases (step_blocked hp).symm.trans h
    obtain ⟨hpend, hbus⟩ | ⟨got, hpend, hbus⟩ := answerExchange_record f s
    · exact ⟨.inl hbus, fun g hg => .inr (hp.symm.trans (hpend.symm.trans hg))⟩
    · exact ⟨.inr ⟨f, got, rfl, hpend, hbus⟩, fun g hg => by cases hpend.symm.trans hg⟩

/-- Settles O44: a step goes on, or its line reads an unbound variable, and then it faults. -/
theorem stepStopsOnlyOnAnUnboundVariable : Obligations.StepStopsOnlyOnAnUnboundVariable := by
  refine fun s => ⟨fun r hr => ?refused, fun e => ⟨fun he => ?unbound, ?fault⟩, step_idle⟩
  case refused =>
    obtain ⟨t, ht⟩ | ⟨hp, l, rest, more, hl, hv⟩ := goesOn_or_unbound s
    · cases ht.symm.trans hr
    · cases (step_unbound hp hl hv).symm.trans hr
  case unbound =>
    refine (goesOn_or_unbound s).resolve_left ?_
    rintro ⟨t, ht⟩
    cases ht.symm.trans he
  case fault =>
    rintro ⟨hp, l, rest, more, hl, hv⟩
    cases e
    exact step_unbound hp hl hv

end Sys2Proof
end

section
/-! PROOFS. What the decoder reads, one rule per operation and per class of frame; the fields of a command byte; what the two
encoders build, as numbers; and the statements of 30_encoding.md, assembled from them. -/

namespace Sys2Proof

/-! ### What the decoder reads from a request -/

section
variable {r : Request}

theorem decode_of_op_0 (h : r.op = 0) : decode (.request r) = .lookup r.raddr := by simp [decode, decodeRequest, h]

theorem decode_of_op_1 (h : r.op = 1) : decode (.request r) = .bitname r.defIn r.pos := by simp [decode, decodeRequest, h]

theorem decode_of_op_2 (h : r.op = 2) : decode (.request r) = .encrd r.chip r.raddr := by simp [decode, decodeRequest, h]

theorem decode_of_op_3 (h : r.op = 3) : decode (.request r) = .encwr r.chip r.raddr r.wdata := by
  simp [decode, decodeRequest, h]

theorem decode_of_op_4 (h : r.op = 4) : decode (.request r) = .decrsp r.frameIn := by simp [decode, decodeRequest, h]

theorem decode_of_op_5 (h : r.op = 5) : decode (.request r) = .decbits r.valueIn r.defIn := by
  simp [decode, decodeRequest, h]

/-- The codes above those of the six operations are the reserved row's (R92). -/
theorem decode_of_six_le_op (h : 6 ≤ r.op.toNat) : decode (.request r) = .reserved r.op := by
  rw [decode, decodeRequest]
  split
  case h_7 => rfl
  all_goals omega

end

theorem six_le_toNat_iff (op : BitVec 3) : 6 ≤ op.toNat ↔ op = 6 ∨ op = 7 := by
  revert op
  decide

/-! ### What the decoder reads from a frame, and the fields of a command byte -/

theorem decode_frame_of_msb {f : Frame} (h : f.cmd.msb = true) :
    decode (.frame f) = .frameRd (f.cmd.extractLsb' 5 2) (f.cmd.extractLsb' 0 5) f.data := by
  simp [decode, decodeFrame, h]

theorem decode_frame_of_not_msb {f : Frame} (h : f.cmd.msb = false) :
    decode (.frame f) = .frameWr (f.cmd.extractLsb' 5 2) (f.cmd.extractLsb' 0 5) f.data := by
  simp [decode, decodeFrame, h]

@[simp] theorem commandByte_chipLo (disc : BitVec 1) (c : BitVec 2) (r : BitVec 5) :
    (commandByte disc c r).extractLsb' 5 2 = c := by
  revert disc c r
  decide

@[simp] theorem commandByte_raddr (disc : BitVec 1) (c : BitVec 2) (r : BitVec 5) :
    (commandByte disc c r).extractLsb' 0 5 = r :=
  BitVec.extractLsb'_append_eq_right

/-- A frame is read back from the fields of its command byte, the discriminator being bit 7 (R82, R85). -/
theorem decode_read_frame (c : BitVec 2) (r : BitVec 5) (d : Byte) :
    decode (.frame { cmd := commandByte 1 c r, data := d }) = .frameRd c r d := by
  have hmsb : (commandByte 1 c r).msb = true := by simp [Laws.RowMatch.commandByte_msb]
  rw [decode_frame_of_msb (f := { cmd := commandByte 1 c r, data := d }) hmsb, commandByte_chipLo, commandByte_raddr]

theorem decode_write_frame (c : BitVec 2) (r : BitVec 5) (v : Byte) :
    decode (.frame { cmd := commandByte 0 c r, data := v }) = .frameWr c r v := by
  have hmsb : (commandByte 0 c r).msb = false := by simp [Laws.RowMatch.commandByte_msb]
  rw [decode_frame_of_not_msb (f := { cmd := commandByte 0 c r, data := v }) hmsb, commandByte_chipLo, commandByte_raddr]

theorem chipLo_toNat (b : Byte) : (b.extractLsb' 5 2).toNat = b.toNat / 32 % 4 := by
  rw [BitVec.extractLsb'_toNat, Nat.shiftRight_eq_div_pow]

theorem raddr_toNat (b : Byte) : (b.extractLsb' 0 5).toNat = b.toNat % 32 :=
  BitVec.extractLsb'_toNat ..

theorem msb_iff_toNat (b : Byte) : b.msb = true ↔ 0x80 ≤ b.toNat := by
  simp [BitVec.msb_eq_decide]

/-! ### The packing of a frame -/

/-- The command byte is the upper byte of the packing (R53, R80). -/
theorem toWord_toNat (f : Frame) : f.toWord.toNat = 256 * f.cmd.toNat + f.data.toNat := by
  rw [Frame.toWord, BitVec.toNat_append, ← Nat.shiftLeft_add_eq_or_of_lt f.data.isLt, Nat.shiftLeft_eq, Nat.mul_comm]

theorem ofWord_toWord (f : Frame) : Frame.ofWord f.toWord = f := by
  unfold Frame.ofWord Frame.toWord
  rw [BitVec.extractLsb'_append_eq_left, BitVec.extractLsb'_append_eq_right]

/-- A table word of sixteen bits is the packing of a frame (R97). -/
theorem decodeTableWord_toWord (f : Frame) : decodeTableWord 16 f.toWord.toNat = some (decode (.frame f)) := by
  simp [decodeTableWord, tableWord, ofWord_toWord]

/-! ### The rows that match -/

/-- The row of a request is settled by its `op` alone (R90, R97). -/
theorem decode_request_mnemonic (r : Request) :
    (decode (.request r)).mnemonic = (decode (.request { Request.zero with op := r.op })).mnemonic := by
  obtain ⟨op, chip, raddr, wdata, pos, frameIn, valueIn, defIn⟩ := r
  fin_cases op <;> rfl

theorem rows_of_op : ∀ op : BitVec 3,
    (opTable.filter fun row => row.covers (.request { Request.zero with op := op })).map OpRow.mnemonic =
      [(decode (.request { Request.zero with op := op })).mnemonic] := by
  decide

theorem rows_of_request (r : Request) :
    (opTable.filter fun row => row.covers (.request r)).map OpRow.mnemonic = [(decode (.request r)).mnemonic] := by
  rw [decode_request_mnemonic]
  exact rows_of_op r.op

/-- Of the two frame rows the one for the frame's bit 15 matches, and no request row does (R97). -/
theorem rows_of_frame (f : Frame) :
    (opTable.filter fun row => row.covers (.frame f)).map OpRow.mnemonic = [if f.cmd.msb then "FRAME.RD" else "FRAME.WR"] := by
  cases hmsb : f.cmd.msb with
  | true =>
    have hkey : f.toWord &&& 0x8000#16 = 0x8000#16 := by simpa [hmsb] using Laws.RowMatch.toWord_discriminator f
    simp [opTable, OpRow.covers, Presented.tableKey, hkey]
  | false =>
    have hkey : f.toWord &&& 0x8000#16 = 0 := by simpa [hmsb] using Laws.RowMatch.toWord_discriminator f
    simp [opTable, OpRow.covers, Presented.tableKey, hkey]

namespace Machine

/-! ### What the two encoders build -/

/-- For operands in range the three fields of `(chip << 5) | raddr` do not meet, so the bytes add up (R82, R143). -/
theorem writeCommand_toNat {chip raddr : Byte} (hc : chip.toNat ≤ 7) (hr : raddr.toNat ≤ 0x1F) :
    (writeCommand chip raddr).toNat = 32 * chip.toNat + raddr.toNat := by
  have hlt : raddr.toNat < 2 ^ 5 := by omega
  rw [writeCommand, BitVec.toNat_or, BitVec.toNat_shiftLeft, Nat.mod_eq_of_lt (by rw [Nat.shiftLeft_eq]; omega),
    ← Nat.shiftLeft_add_eq_or_of_lt hlt, Nat.shiftLeft_eq, Nat.mul_comm]

theorem or_0x80_toNat (b : Byte) : (0x80#8 ||| b).toNat = 128 + b.toNat % 128 := by
  revert b
  decide

/-- The chip bit of weight 4 falls on the discriminator, which a read sets anyway (R83, R142). -/
theorem readCommand_toNat {chip raddr : Byte} (hc : chip.toNat ≤ 7) (hr : raddr.toNat ≤ 0x1F) :
    (readCommand chip raddr).toNat = 128 + 32 * (chip.toNat % 4) + raddr.toNat := by
  have hread : readCommand chip raddr = 0x80#8 ||| writeCommand chip raddr := BitVec.or_assoc ..
  rw [hread, or_0x80_toNat, writeCommand_toNat hc hr]
  omega

theorem drive_inj {r r' : Response} {s : State} : drive r s = drive r' s ↔ r = r' :=
  ⟨fun h => Option.some.inj (congrArg State.resp h), congrArg fun x => drive x s⟩

/-- An encoder drives a frame exactly where chip and register address are in range, and then the one it builds (R141). -/
theorem rangeChecked_frame_iff {chip raddr : Byte} {f g : Frame} {s : State} :
    (if addressOutOfRange chip raddr then raise .addressOutOfRange s else drive (.frame g) s) = drive (.frame f) s ↔
      chip.toNat ≤ 7 ∧ raddr.toNat ≤ 0x1F ∧ g = f := by
  have hrange := addressOutOfRange_iff chip raddr
  split
  case isTrue h =>
    have hout := hrange.mp h
    simp only [raise, drive_inj, reduceCtorEq, false_iff]
    omega
  case isFalse h =>
    have hin := mt hrange.mpr h
    rw [drive_inj, Response.frame.injEq]
    exact ⟨fun hf => ⟨by omega, by omega, hf⟩, fun ⟨_, _, hf⟩ => hf⟩

/-- The operands from which `ENCWR` produces a command byte, as an equation of numbers (R143). -/
theorem encwr_produces_iff {chip raddr v cmd : Byte} {s : State} :
    exec (.encwr chip raddr v) s = .next { s with resp := some (.frame { cmd := cmd, data := v }) } ↔
      chip.toNat ≤ 7 ∧ raddr.toNat ≤ 0x1F ∧ 32 * chip.toNat + raddr.toNat = cmd.toNat := by
  rw [exec, execEncwr, Host.Outcome.next.injEq, ← drive, rangeChecked_frame_iff]
  refine and_congr_right fun hc => and_congr_right fun hr => ?_
  rw [writeFrame, Frame.mk.injEq, ← BitVec.toNat_inj, writeCommand_toNat hc hr, and_iff_left rfl]

/-- The operands from which `ENCRD` produces a frame, as an equation of numbers (R142). -/
theorem encrd_produces_iff {chip raddr x cmd : Byte} {s : State} :
    exec (.encrd chip raddr) s = .next { s with resp := some (.frame { cmd := cmd, data := x }) } ↔
      chip.toNat ≤ 7 ∧ raddr.toNat ≤ 0x1F ∧ 128 + 32 * (chip.toNat % 4) + raddr.toNat = cmd.toNat ∧ 0x00 = x := by
  rw [exec, execEncrd, Host.Outcome.next.injEq, ← drive, rangeChecked_frame_iff]
  refine and_congr_right fun hc => and_congr_right fun hr => ?_
  rw [readFrame, Frame.mk.injEq, ← BitVec.toNat_inj, readCommand_toNat hc hr]

/-! ### The placed word -/

theorem withFetchWord_of_tableWord {nbits w : Nat} {p : Presented} (h : tableWord nbits w = some p) (s : State) :
    s.withFetchWord nbits w =
      { s with pending := none, awaiting := none, current := { dst := none, op := .present p } :: s.current } := by
  simp [State.withFetchWord, h]

end Machine

/-! ### The statements of 30_encoding.md -/

open Machine

/-- Settles O1: a request is read back by its operation's rule, and a frame by the fields of its command byte. -/
theorem decodeOfEncode : Obligations.DecodeOfEncode := by
  intro i hwf
  cases i with
  | lookup raddr => exact decode_of_op_0 rfl
  | bitname d pos => exact decode_of_op_1 rfl
  | encrd chip raddr => exact decode_of_op_2 rfl
  | encwr chip raddr wdata => exact decode_of_op_3 rfl
  | decrsp f => exact decode_of_op_4 rfl
  | decbits v d => exact decode_of_op_5 rfl
  | reserved op =>
    have hop : op = 6 ∨ op = 7 := by simpa [Instr.wf] using hwf
    exact decode_of_six_le_op ((six_le_toNat_iff op).mpr hop)
  | frameRd c r d => exact decode_read_frame c r d
  | frameWr c r v => exact decode_write_frame c r v

/-- Settles O2: the fields of the command byte, put together again, are the command byte. -/
theorem encodeOfDecodedFrame : Obligations.EncodeOfDecodedFrame := by
  refine fun f => ⟨?_, toWord_toNat f, ofWord_toWord f, decodeTableWord_toWord f⟩
  have hcmd := commandByte_of_fields f.cmd
  cases hmsb : f.cmd.msb with
  | true =>
    rw [hmsb] at hcmd
    rw [decode_frame_of_msb hmsb]
    exact congrArg (fun c => Presented.frame ⟨c, f.data⟩) hcmd
  | false =>
    rw [hmsb] at hcmd
    rw [decode_frame_of_not_msb hmsb]
    exact congrArg (fun c => Presented.frame ⟨c, f.data⟩) hcmd

/-- Settles O3: bit 7 is the comparison with 0x80, and the fields are quotient and remainder by 32. -/
theorem discriminatorClassifiesFrames : Obligations.DiscriminatorClassifiesFrames := by
  intro f
  have hmsb := msb_iff_toNat f.cmd
  refine ⟨fun h => ⟨_, _, decode_frame_of_msb (hmsb.mpr h), chipLo_toNat _, raddr_toNat _⟩,
    fun h => ⟨_, _, decode_frame_of_not_msb (Bool.eq_false_iff.mpr fun hm => ?_), ?_, raddr_toNat _⟩⟩
  · exact absurd (hmsb.mp hm) (by omega)
  · rw [chipLo_toNat]
    omega

/-- Settles O6: a request's rows are told apart by its `op`, a frame's by its bit 15. -/
theorem exactlyOneRowMatches : Obligations.ExactlyOneRowMatches := by
  intro p
  cases p with
  | request r => exact rows_of_request r
  | frame f =>
    rw [rows_of_frame]
    cases hmsb : f.cmd.msb with
    | true => rw [decode_frame_of_msb hmsb]; rfl
    | false => rw [decode_frame_of_not_msb hmsb]; rfl

/-- Settles O18: a write's command byte is `32 * chip + raddr`, and a read's drops the chip bit of weight 4 for the
discriminator. -/
theorem producersOfACommandByte : Obligations.ProducersOfACommandByte := by
  intro s cmd v chip raddr
  have hcmd := cmd.isLt
  simp only [encwr_produces_iff, encrd_produces_iff, ne_eq, and_true]
  exact ⟨fun h => ⟨by omega, fun x => by omega⟩, fun h => ⟨by omega, by omega⟩⟩

/-- Settles O4: the decoder's rule for each code. -/
theorem opSelectsTheOperation : Obligations.OpSelectsTheOperation :=
  fun r => ⟨decode_of_op_0, decode_of_op_1, decode_of_op_2, decode_of_op_3, decode_of_op_4, decode_of_op_5,
    fun h => ⟨decode_of_six_le_op ((six_le_toNat_iff r.op).mpr h), decode_wf (.request r)⟩⟩

/-- Settles O5: by the decoder's rule for its code, an operation's instruction holds the ports it reads and nothing else. -/
theorem unreadPortsAreIgnored : Obligations.UnreadPortsAreIgnored := by
  refine fun r _ _ _ _ _ _ _ =>
    ⟨fun h => ?op0, fun h => ?op1, fun h => ?op2, fun h => ?op3, fun h => ?op4, fun h => ?op5, fun h => ?op6_7⟩
  case op0 => simp only [decode_of_op_0, h]
  case op1 => simp only [decode_of_op_1, h]
  case op2 => simp only [decode_of_op_2, h]
  case op3 => simp only [decode_of_op_3, h]
  case op4 => simp only [decode_of_op_4, h]
  case op5 => simp only [decode_of_op_5, h]
  case op6_7 => simp only [decode_of_six_le_op, h]

/-- Settles O7: the decoder evaluated on the spec's own words. -/
theorem specWordsDecode : Obligations.SpecWordsDecode :=
  ⟨decode_of_op_2 rfl, by decide, by decide, by decide⟩

/-- Settles O38: the placed line is the one taken, and what it presents is the word. -/
theorem placedWordRunsNext : Obligations.PlacedWordRunsNext := by
  intro s nbits w i h
  obtain ⟨p, hp, rfl⟩ := Option.map_eq_some_iff.mp h
  rw [withFetchWord_of_tableWord hp]
  exact step_presented (l := { dst := none, op := .present p }) rfl rfl rfl

end Sys2Proof
end

section
/-! PROOFS. What a valid table holds at each place, and what `LOOKUP` answers over it; what `BITNAME` answers at an index; what
`ADEC` and `BMUX` select; and the statements of 40_register_model.md, assembled from them. -/

namespace Sys2Proof

namespace Machine

/-! ### The places of a valid table (R24) -/

section
variable {t : List RegisterDef}

theorem length_of_wf (h : WfTable t) : t.length = 32 := by
  obtain ⟨h1, -⟩ := (wfTable_iff _).mp h
  simpa using (w1_iff _).mp h1

/-- Under `WF_TABLE` an entry stands at the place its address says, and nowhere else (W6). -/
theorem getElem?_eq_some_iff_of_wf (h : WfTable t) {i : Nat} {d : RegisterDef} :
    t[i]? = some d ↔ d ∈ t ∧ d.address.toNat = i := by
  obtain ⟨h1, -, -, -, -, h6, -⟩ := (wfTable_iff _).mp h
  have hplace := (w6_iff ((w1_iff _).mp h1)).mp h6
  have haddr : ∀ {j}, t[j]? = some d → d.address.toNat = j := by
    intro j hj
    obtain ⟨hlt, rfl⟩ := List.getElem?_eq_some_iff.mp hj
    exact (congrArg RawDef.address (List.getElem_map rawOf)).symm.trans (hplace j (by simpa using hlt))
  constructor
  · exact fun hi => ⟨List.mem_of_getElem? hi, haddr hi⟩
  · rintro ⟨hd, rfl⟩
    obtain ⟨j, hj⟩ := List.mem_iff_getElem?.mp hd
    rwa [haddr hj]

/-- Under `WF_TABLE` the entry at an address is the one at that place, and beyond the last place there is none. -/
theorem tableAt_eq_getElem?_of_wf (h : WfTable t) (a : Byte) : tableAt t a = t[a.toNat]? := by
  cases hf : tableAt t a with
  | some d => exact ((getElem?_eq_some_iff_of_wf h).mpr (tableAt_some hf)).symm
  | none =>
    refine (Option.eq_none_iff_forall_ne_some.mpr fun d hd => ?_).symm
    obtain ⟨hmem, haddr⟩ := (getElem?_eq_some_iff_of_wf h).mp hd
    exact tableAt_none.mp hf d hmem haddr

end

/-! ### What `LOOKUP` answers (R121) -/

section
variable {s : State} {a : Byte} {d : RegisterDef}

theorem exec_lookup_unknown (h : 0x1F < a.toNat ∨ tableAt s.regtab a = none) :
    exec (.lookup a) s = .next (raise .unknownRegister s) := by
  cases hr : raddrOutOfRange a with
  | true => simp [exec, execLookup, hr]
  | false =>
    have hnone := h.resolve_left fun hlt => Bool.false_ne_true (hr.symm.trans ((raddrOutOfRange_iff a).mpr hlt))
    simp [exec, execLookup, hr, hnone]

/-- `LOOKUP` answers a definition exactly where the full port is in range and the table has an entry at it. -/
theorem exec_lookup_definition_iff :
    exec (.lookup a) s = .next { s with resp := some (.definition d) } ↔ a.toNat ≤ 0x1F ∧ tableAt s.regtab a = some d := by
  refine ⟨fun h => ?_, fun ⟨ha, ht⟩ => execLookup_of_tableAt ha ht⟩
  have answered : ∀ {r}, exec (.lookup a) s = .next (drive r s) → r = .definition d :=
    fun hr => drive_inj.mp (Host.Outcome.next.inj (hr.symm.trans h))
  have known : ¬ (0x1F < a.toNat ∨ tableAt s.regtab a = none) := fun hu => nomatch answered (exec_lookup_unknown hu)
  obtain ⟨ha, ht⟩ := not_or.mp known
  obtain ⟨d', hd'⟩ := Option.ne_none_iff_exists'.mp ht
  have ha' : a.toNat ≤ 0x1F := Nat.le_of_not_lt ha
  cases answered (execLookup_of_tableAt ha' hd')
  exact ⟨ha', hd'⟩

/-- Under `WF_TABLE` that entry is the one at place `a`. -/
theorem exec_lookup_definition_iff_of_wf (h : WfTable s.regtab) :
    exec (.lookup a) s = .next { s with resp := some (.definition d) } ↔ s.regtab[a.toNat]? = some d := by
  rw [exec_lookup_definition_iff, tableAt_eq_getElem?_of_wf h, and_iff_right_iff_imp]
  intro hd
  obtain ⟨hlt, -⟩ := List.getElem?_eq_some_iff.mp hd
  rw [length_of_wf h] at hlt
  omega

/-- Under `WF_TABLE` every address of the map is answered. -/
theorem exists_lookup_of_wf (h : WfTable s.regtab) (ha : a.toNat ≤ 0x1F) :
    ∃ d, s.regtab[a.toNat]? = some d ∧ exec (.lookup a) s = .next { s with resp := some (.definition d) } := by
  have hlt : a.toNat < s.regtab.length := by rw [length_of_wf h]; omega
  have hd := List.getElem?_eq_getElem hlt
  exact ⟨_, hd, (exec_lookup_definition_iff_of_wf h).mpr hd⟩

end

/-! ### What `BITNAME` answers (R123) -/

section
variable {d : RegisterDef} {pos : Byte} {s : State}

theorem exec_bitname_of_lt (h : pos.toNat < 8) :
    exec (.bitname d pos) s = .next { s with resp := some (.name d.bits[pos.toNat]) } := by
  simp [exec, execBitname, h, drive]

theorem exec_bitname_of_ge (h : 8 ≤ pos.toNat) :
    exec (.bitname d pos) s = .next { s with resp := some (.error .invalidBitPosition) } := by
  simp [exec, execBitname, h, raise, drive]

/-- `BITNAME` at a sequence index put on the port. -/
theorem exec_bitname_index (p : Fin 8) :
    exec (.bitname d (BitVec.ofNat 8 p)) s = .next { s with resp := some (.name d.bits[p]) } := by
  have hp : (BitVec.ofNat 8 p).toNat = p := Nat.mod_eq_of_lt (by omega)
  rw [exec_bitname_of_lt (by omega)]
  simp [hp]

end

/-! ### What `ADEC` selects (R122) -/

/-- The bits of a port from bit `k` up are zero exactly where it holds a number below `2 ^ k`. -/
theorem upperBits_eq_zero_iff {k m : Nat} (h : k + m = 8) {b : Byte} : b.extractLsb' k m = 0 ↔ b.toNat < 2 ^ k := by
  have hlt : b.toNat / 2 ^ k < 2 ^ m := by
    rw [Nat.div_lt_iff_lt_mul (Nat.two_pow_pos k), ← Nat.pow_add, Nat.add_comm, h]
    exact b.isLt
  rw [← BitVec.toNat_inj, BitVec.extractLsb'_toNat, Nat.shiftRight_eq_div_pow, Nat.mod_eq_of_lt hlt, BitVec.ofNat_eq_ofNat,
    BitVec.toNat_ofNat, Nat.zero_mod, Nat.div_eq_zero_iff_lt (Nat.two_pow_pos k)]

/-- The upper three bits zero and the lower five equal to `i`: the whole port is `i`. -/
theorem adecSelect_iff {raddr : Byte} {i : Nat} (hi : i < 32) : adecSelect raddr i = true ↔ raddr.toNat = i := by
  rw [adecSelect, Bool.and_eq_true, beq_iff_eq, beq_iff_eq, upperBits_eq_zero_iff rfl, ← BitVec.toNat_inj, raddr_toNat,
    BitVec.toNat_ofNat]
  omega

/-- From place `i` on, the only line that can be 1 is that of place `raddr`. -/
theorem adecFrom_eq_getElem? (raddr : Byte) (l : List RegisterDef) :
    ∀ i, i + l.length ≤ 32 → i ≤ raddr.toNat → adecFrom raddr i l = l[raddr.toNat - i]? := by
  induction l with
  | nil => exact fun _ _ _ => rfl
  | cons d rest ih =>
    intro i hlen hi
    rw [List.length_cons] at hlen
    have hsel := adecSelect_iff (raddr := raddr) (i := i) (by omega)
    by_cases h : raddr.toNat = i
    · simp [adecFrom, hsel.mpr h, h]
    · rw [adecFrom, if_neg (mt hsel.mp h), ih (i + 1) (by omega) (by omega),
        show raddr.toNat - i = raddr.toNat - (i + 1) + 1 by omega, List.getElem?_cons_succ]

theorem adecOutput_eq_getElem? {t : List RegisterDef} (h : t.length ≤ 32) (raddr : Byte) :
    adecOutput t raddr = t[raddr.toNat]? :=
  adecFrom_eq_getElem? raddr t 0 (by omega) (Nat.zero_le _)

/-! ### What `BMUX` selects and how its lanes are wired (R124) -/

theorem bmuxEnabled_iff (pos : Byte) : bmuxEnabled pos = true ↔ pos.toNat < 8 := by
  rw [bmuxEnabled, beq_iff_eq, upperBits_eq_zero_iff rfl]
  rfl

/-- Each of the eight settings of the steering bits lets the input of that index through. -/
theorem bmux_index {α : Type} (v : Vector α 8) (p : Fin 8) : bmux v (BitVec.ofNat 8 p) = v[p] := by
  fin_cases p <;> rfl

/-- While it is enabled, `BMUX` lets through the name that `BITNAME` answers. -/
theorem exec_bitname_of_bmuxEnabled {pos : Byte} (h : bmuxEnabled pos = true) (d : RegisterDef) (s : State) :
    exec (.bitname d pos) s = .next { s with resp := some (.name (bmux d.bits pos)) } := by
  obtain ⟨p, rfl⟩ : ∃ p : Fin 8, pos = BitVec.ofNat 8 p := ⟨⟨pos.toNat, (bmuxEnabled_iff pos).mp h⟩, by simp⟩
  rw [bmux_index, exec_bitname_index]

/-- The lane `DECBITS` computes is the lane the wires make. -/
theorem laneAt_eq_wiredLane (v : Byte) (d : RegisterDef) (p : Fin 8) :
    ((laneAt v d p).name, (laneAt v d p).bit) = wiredLane v d p := by
  simp only [laneAt, wiredLane, bitAtIndex_eq]

end Machine

/-! ### The statements of 40_register_model.md -/

open Machine

/-- Settles O13: under `WF_TABLE` the entry at an address is the one at that place, and no other has the address. -/
theorem lookupAnswersTheEntry : Obligations.LookupAnswersTheEntry := by
  refine fun s raddr =>
    ⟨fun h => exec_lookup_unknown (.inl h), fun h => exec_lookup_unknown (.inr (tableAt_none.mpr h)), fun hwf ha => ?_⟩
  have hplace {e} : s.regtab[raddr.toNat]? = some e ↔ _ := getElem?_eq_some_iff_of_wf hwf
  obtain ⟨d, hd, hexec⟩ := exists_lookup_of_wf hwf ha
  refine ⟨d, hd, (hplace.mp hd).2, fun e he hea => ?_, hexec⟩
  exact Option.some.inj ((hplace.mpr ⟨he, hea⟩).symm.trans hd)

/-- Settles O26: lane `p` holds the name of index `p`, and a valid table's entry stands at the place of its address. -/
theorem registerModelLaws : Obligations.RegisterModelLaws := by
  refine fun s v d p a => ⟨⟨lanesOf v d, rfl, ?_⟩, fun hwf ha => ?_⟩
  · rw [lanesOf_get]
    exact exec_bitname_index p
  · obtain ⟨e, he, hexec⟩ := exists_lookup_of_wf hwf ha
    exact ⟨e, hexec, ((getElem?_eq_some_iff_of_wf hwf).mp he).2⟩

/-- Settles O34: line `i` is 1 exactly at address `i`, so `ADEC` and `LOOKUP` both give the entry at place `raddr`. -/
theorem adecRefinesLookup : Obligations.AdecRefinesLookup := by
  refine ⟨fun raddr i j hi hj hsi hsj => ?_, fun s raddr hwf => ?_⟩
  · exact ((adecSelect_iff hi).mp hsi).symm.trans ((adecSelect_iff hj).mp hsj)
  · have hlen := length_of_wf hwf
    rw [adecOutput_eq_getElem? hlen.le]
    refine ⟨fun d => (exec_lookup_definition_iff_of_wf hwf).symm, ?_⟩
    rw [List.getElem?_eq_none_iff, hlen]
    exact Nat.succ_le_iff

/-- Settles O35: the enable line is the range check of `BITNAME`, and the eight inputs and lanes are the operations' own. -/
theorem bmuxRefinesBitname : Obligations.BmuxRefinesBitname := by
  refine fun s d pos v => ⟨fun h => exec_bitname_of_bmuxEnabled h d s, fun h => exec_bitname_of_ge ?_,
    lanesOf v d, rfl, fun p => ?_⟩
  · exact Nat.le_of_not_lt fun hlt => Bool.false_ne_true (h.symm.trans ((bmuxEnabled_iff pos).mpr hlt))
  · rw [lanesOf_get]
    exact laneAt_eq_wiredLane v d p

/-- Settles O15, by the two answers of `BITNAME`. -/
theorem bitnameAnswersTheName : Obligations.BitnameAnswersTheName :=
  fun _ _ _ => ⟨exec_bitname_of_lt, exec_bitname_of_ge⟩

end Sys2Proof
end

section
/-! PROOFS. Which frame an encoder drives, and when it raises its one error; how the command bytes of a write and of a read compare;
and the statements of 41_command_encode.md, assembled from them. -/

namespace Sys2Proof

namespace Machine

/-! ### What the two encoders answer (R141 to R143) -/

section
variable {chip raddr : Byte}

theorem exec_encrd_out_of_range (h : 7 < chip.toNat ∨ 0x1F < raddr.toNat) (s : State) :
    exec (.encrd chip raddr) s = .next { s with resp := some (.error .addressOutOfRange) } :=
  congrArg Host.Outcome.next (if_pos ((addressOutOfRange_iff chip raddr).mpr h))

theorem exec_encwr_out_of_range (h : 7 < chip.toNat ∨ 0x1F < raddr.toNat) (wdata : Byte) (s : State) :
    exec (.encwr chip raddr wdata) s = .next { s with resp := some (.error .addressOutOfRange) } :=
  congrArg Host.Outcome.next (if_pos ((addressOutOfRange_iff chip raddr).mpr h))

/-- `ENCRD` drives a frame exactly on legal operands, and then the read frame. -/
theorem exec_encrd_frame_iff {f : Frame} {s : State} :
    exec (.encrd chip raddr) s = .next { s with resp := some (.frame f) } ↔
      chip.toNat ≤ 7 ∧ raddr.toNat ≤ 0x1F ∧ readFrame chip raddr = f := by
  rw [exec, execEncrd, Host.Outcome.next.injEq, ← drive, rangeChecked_frame_iff]

/-- `ENCWR` drives a frame exactly on legal operands, and then the write frame. -/
theorem exec_encwr_frame_iff {wdata : Byte} {f : Frame} {s : State} :
    exec (.encwr chip raddr wdata) s = .next { s with resp := some (.frame f) } ↔
      chip.toNat ≤ 7 ∧ raddr.toNat ≤ 0x1F ∧ writeFrame chip raddr wdata = f := by
  rw [exec, execEncwr, Host.Outcome.next.injEq, ← drive, rangeChecked_frame_iff]

theorem exec_encrd_in_range (hc : chip.toNat ≤ 7) (hr : raddr.toNat ≤ 0x1F) (s : State) :
    exec (.encrd chip raddr) s = .next { s with resp := some (.frame (readFrame chip raddr)) } :=
  exec_encrd_frame_iff.mpr ⟨hc, hr, rfl⟩

theorem exec_encwr_in_range (hc : chip.toNat ≤ 7) (hr : raddr.toNat ≤ 0x1F) (wdata : Byte) (s : State) :
    exec (.encwr chip raddr wdata) s = .next { s with resp := some (.frame (writeFrame chip raddr wdata)) } :=
  exec_encwr_frame_iff.mpr ⟨hc, hr, rfl⟩

/-- The range check fixes an encoder's response for every state, and its one error is `AddressOutOfRange` (R140, R141). -/
theorem exists_rangeChecked_response (chip raddr : Byte) (g : Frame) :
    ∃ x, x ≠ Response.error .unknownRegister ∧ ∀ s : State,
      (if addressOutOfRange chip raddr then raise .addressOutOfRange s else drive (.frame g) s) = drive x s := by
  cases addressOutOfRange chip raddr with
  | true => exact ⟨.error .addressOutOfRange, by simp, fun _ => rfl⟩
  | false => exact ⟨.frame g, by simp, fun _ => rfl⟩

/-! ### The command byte of a write and of a read -/

/-- A read's command byte is the write's with bit 7 set (R142, R143). -/
theorem readCommand_eq_writeCommand_or (chip raddr : Byte) : readCommand chip raddr = writeCommand chip raddr ||| 0x80#8 := by
  rw [readCommand, BitVec.or_assoc, BitVec.or_comm, ← writeCommand]

/-- From chip 4 on, the chip's own bit of weight 4 sets bit 7, and the two formulas agree (D16). -/
theorem readCommand_eq_writeCommand (h4 : 4 ≤ chip.toNat) (hc : chip.toNat ≤ 7) (hr : raddr.toNat ≤ 0x1F) :
    readCommand chip raddr = writeCommand chip raddr := by
  rw [← BitVec.toNat_inj, readCommand_toNat hc hr, writeCommand_toNat hc hr]
  omega

/-- A read's command byte keeps two of the three chip bits, so chips k and k + 4 coincide (R83, R142). -/
theorem exec_encrd_sub_four (h4 : 4 ≤ chip.toNat) (hc : chip.toNat ≤ 7) (hr : raddr.toNat ≤ 0x1F) (s : State) :
    exec (.encrd chip raddr) s = exec (.encrd (chip - 4) raddr) s := by
  have hsub : (chip - 4).toNat = chip.toNat - 4 := BitVec.toNat_sub_of_le h4
  have hc' : (chip - 4).toNat ≤ 7 := by omega
  have hcmd : readCommand chip raddr = readCommand (chip - 4) raddr := by
    rw [← BitVec.toNat_inj, readCommand_toNat hc hr, readCommand_toNat hc' hr, hsub]
    omega
  rw [exec_encrd_in_range hc hr, exec_encrd_in_range hc' hr, readFrame, readFrame, hcmd]

/-- Bit 7 of a write's command byte is the chip bit of weight 4 (D16). -/
theorem writeCommand_bit7 (hc : chip.toNat ≤ 7) (hr : raddr.toNat ≤ 0x1F) :
    (writeCommand chip raddr).getLsbD 7 = decide (4 ≤ chip.toNat) := by
  have hmsb : (writeCommand chip raddr).getLsbD 7 = (writeCommand chip raddr).msb := (BitVec.msb_eq_getLsbD_last _).symm
  rw [hmsb, Bool.eq_iff_iff, msb_iff_toNat, writeCommand_toNat hc hr, decide_eq_true_eq]
  omega

/-- The fields of a write's command byte give chip and register back: quotient and remainder by 32 (R144). -/
theorem writeCommand_inj {chip' raddr' : Byte} (hc : chip.toNat ≤ 7) (hr : raddr.toNat ≤ 0x1F) (hc' : chip'.toNat ≤ 7)
    (hr' : raddr'.toNat ≤ 0x1F) (h : writeCommand chip raddr = writeCommand chip' raddr') : chip = chip' ∧ raddr = raddr' := by
  rw [← BitVec.toNat_inj, writeCommand_toNat hc hr, writeCommand_toNat hc' hr'] at h
  rw [← BitVec.toNat_inj, ← BitVec.toNat_inj]
  omega

end

/-- Every byte is the command byte of a write with legal operands (R143). -/
theorem exists_writeCommand_eq (cmd : Byte) :
    ∃ chip raddr : Byte, chip.toNat ≤ 7 ∧ raddr.toNat ≤ 0x1F ∧ writeCommand chip raddr = cmd := by
  have hlt := cmd.isLt
  have hchip : (cmd / 32#8).toNat = cmd.toNat / 32 := BitVec.toNat_udiv
  have hraddr : (cmd % 32#8).toNat = cmd.toNat % 32 := BitVec.toNat_umod
  have hc : (cmd / 32#8).toNat ≤ 7 := by omega
  have hr : (cmd % 32#8).toNat ≤ 0x1F := by omega
  refine ⟨cmd / 32#8, cmd % 32#8, hc, hr, ?_⟩
  rw [← BitVec.toNat_inj, writeCommand_toNat hc hr]
  omega

/-- Every byte with bit 7 set is the command byte of a read with legal operands: of the read from the chip whose write it is. -/
theorem exists_readCommand_eq {cmd : Byte} (h : 0x80 ≤ cmd.toNat) :
    ∃ chip raddr : Byte, chip.toNat ≤ 7 ∧ raddr.toNat ≤ 0x1F ∧ readCommand chip raddr = cmd := by
  obtain ⟨chip, raddr, hc, hr, rfl⟩ := exists_writeCommand_eq cmd
  rw [writeCommand_toNat hc hr] at h
  exact ⟨chip, raddr, hc, hr, readCommand_eq_writeCommand (by omega) hc hr⟩

end Machine

/-! ### The statements of 41_command_encode.md -/

open Machine

/-- Settles O16: on legal operands the read frame, whose command byte is `128 + 32 * (chip % 4) + raddr`. -/
theorem encrdBuildsTheReadFrame : Obligations.EncrdBuildsTheReadFrame := by
  refine ⟨fun s chip raddr => ⟨fun h => exec_encrd_out_of_range h s, fun hc hr => ?legal⟩, fun s cmd h => ?everyByte⟩
  case legal =>
    exact ⟨exec_encrd_in_range hc hr s, readCommand_toNat hc hr, fun h4 => exec_encrd_sub_four h4 hc hr s⟩
  case everyByte =>
    obtain ⟨chip, raddr, hc, hr, rfl⟩ := exists_readCommand_eq h
    exact ⟨chip, raddr, exec_encrd_in_range hc hr s⟩

/-- Settles O17: on legal operands the write frame, whose command byte is `32 * chip + raddr`; its bit 7 tells the chips that
share it with a read from those that do not. -/
theorem encwrBuildsTheWriteFrame : Obligations.EncwrBuildsTheWriteFrame := by
  refine ⟨fun s chip raddr wdata => ⟨fun h => exec_encwr_out_of_range h wdata s, fun hc hr => ?legal⟩,
    fun s cmd wdata => ?everyByte⟩
  case legal =>
    have hread := exec_encrd_in_range hc hr s
    have hbit := writeCommand_bit7 hc hr
    refine ⟨exec_encwr_in_range hc hr wdata s, writeCommand_toNat hc hr, fun h3 => ⟨?_, ?_⟩, fun h4 => ⟨?_, ?_⟩⟩
    · rwa [readFrame, readCommand_eq_writeCommand_or] at hread
    · exact hbit.trans (decide_eq_false (by omega))
    · rwa [readFrame, readCommand_eq_writeCommand h4 hc hr] at hread
    · exact hbit.trans (decide_eq_true h4)
  case everyByte =>
    obtain ⟨chip, raddr, hc, hr, rfl⟩ := exists_writeCommand_eq cmd
    exact ⟨chip, raddr, exec_encwr_in_range hc hr wdata s⟩

/-- Settles O19: a driven frame comes from legal operands, whose command byte tells chip and register, and its data is the value. -/
theorem encwrIsOneToOne : Obligations.EncwrIsOneToOne := by
  intro s c r v c' r' v' f h h'
  obtain ⟨hc, hr, hf⟩ := exec_encwr_frame_iff.mp h
  obtain ⟨hc', hr', hf'⟩ := exec_encwr_frame_iff.mp h'
  obtain ⟨hcmd, hdata⟩ := Frame.mk.inj (hf.trans hf'.symm)
  obtain ⟨rfl, rfl⟩ := writeCommand_inj hc hr hc' hr' hcmd
  exact ⟨rfl, rfl, hdata⟩

/-- Settles O31: the encoders answer by their range check, the decoders by their result, whatever the state. -/
theorem codecReadsOnlyItsOperands : Obligations.CodecReadsOnlyItsOperands := by
  refine ⟨fun c r => ?encrd, fun c r v => ?encwr, fun f => ?decrsp, fun v d => ?decbits⟩
  case encrd =>
    obtain ⟨x, hx, hexec⟩ := exists_rangeChecked_response c r (readFrame c r)
    exact ⟨x, hx, fun s => congrArg Host.Outcome.next (hexec s)⟩
  case encwr =>
    obtain ⟨x, hx, hexec⟩ := exists_rangeChecked_response c r (writeFrame c r v)
    exact ⟨x, hx, fun s => congrArg Host.Outcome.next (hexec s)⟩
  case decrsp => exact ⟨.value f.data, by simp, fun _ => rfl⟩
  case decbits => exact ⟨.lanes (lanesOf v d), by simp, fun _ => rfl⟩

end Sys2Proof
end

section
/-! PROOFS. What each lane of `DECBITS` holds; the BitVector as the wired lanes of the non-reserved places, in index order; a byte
as the sum of the weights of its lanes; and the statements of 42_response_decode.md, assembled from them. -/

namespace Sys2Proof

namespace Machine

/-! ### The lanes of `DECBITS` (R162) -/

theorem laneAt_eq (v : Byte) (d : RegisterDef) (p : Fin 8) :
    laneAt v d p = { name := d.bits[p], bit := v.getLsbD (7 - p), keep := d.bits[p] != "-" } := by
  rw [laneAt, bitAtIndex_eq]
  rfl

@[simp] theorem laneAt_bit (v : Byte) (d : RegisterDef) (p : Fin 8) : (laneAt v d p).bit = v.getLsbD (7 - p) :=
  bitAtIndex_eq v p

theorem lanesOf_toList (v : Byte) (d : RegisterDef) : (lanesOf v d).toList = (List.finRange 8).map (laneAt v d) := rfl

/-! ### The BitVector (R162 to R164) -/

theorem namedBits_eq_map_wiredLane (v : Byte) (d : RegisterDef) : namedBits v d = (List.finRange 8).map (wiredLane v d) := rfl

/-- The indices of the non-reserved places of a definition, ascending (R23, R164). -/
def keptPlaces (d : RegisterDef) : List (Fin 8) := (List.finRange 8).filter fun p => d.bits[p] != "-"

@[simp] theorem mem_keptPlaces {d : RegisterDef} {p : Fin 8} : p ∈ keptPlaces d ↔ d.bits[p] ≠ "-" := by
  simp [keptPlaces]

/-- What `DECBITS` keeps: the wired lanes of the non-reserved places. -/
theorem bitListOf_lanesOf (v : Byte) (d : RegisterDef) : bitListOf (lanesOf v d) = (keptPlaces d).map (wiredLane v d) := by
  have hpair : (fun x : Lane => (x.name, x.bit)) ∘ laneAt v d = wiredLane v d := funext (laneAt_eq_wiredLane v d)
  rw [bitListOf, lanesOf_toList, List.filter_map, List.map_map, hpair]
  rfl

/-- Leaving the reserved pairs out of the named bits leaves those very lanes. -/
theorem bitVectorOf_eq_map_wiredLane (v : Byte) (d : RegisterDef) : bitVectorOf v d = (keptPlaces d).map (wiredLane v d) := by
  rw [bitVectorOf, namedBits_eq_map_wiredLane, List.filter_map]
  rfl

theorem bitListOf_lanesOf_eq_bitVectorOf (v : Byte) (d : RegisterDef) : bitListOf (lanesOf v d) = bitVectorOf v d :=
  (bitListOf_lanesOf v d).trans (bitVectorOf_eq_map_wiredLane v d).symm

theorem keptPlaces_eq_nil {d : RegisterDef} (h : ∀ p : Fin 8, d.bits[p] = "-") : keptPlaces d = [] :=
  List.filter_eq_nil_iff.mpr fun p _ => by simp [h p]

theorem keptPlaces_eq_finRange {d : RegisterDef} (h : ∀ p : Fin 8, d.bits[p] ≠ "-") : keptPlaces d = List.finRange 8 :=
  List.filter_eq_self.mpr fun p _ => bne_iff_ne.mpr (h p)

/-- Over one definition the lanes of the same places are compared, so two BitVectors differ only by a bit of a kept place. -/
theorem bitListOf_lanesOf_inj {v v' : Byte} {d : RegisterDef} :
    bitListOf (lanesOf v d) = bitListOf (lanesOf v' d) ↔
      ∀ p : Fin 8, d.bits[p] ≠ "-" → v.getLsbD (7 - p) = v'.getLsbD (7 - p) := by
  simp only [bitListOf_lanesOf, List.map_inj_left, mem_keptPlaces, wiredLane, Prod.mk.injEq, true_and]

/-! ### A byte as the sum of its lanes (R165) -/

/-- The low `n` bits of a number, the most significant first, give it back modulo `2 ^ n`. -/
theorem mod_two_pow_eq_sum_bits (x n : Nat) :
    x % 2 ^ n = ((List.finRange n).map fun p : Fin n => if x.testBit (n - 1 - p) then 2 ^ (n - 1 - p.val) else 0).sum := by
  induction n with
  | zero => simp [Nat.mod_one]
  | succ n ih =>
    have htop : 2 ^ n * (x / 2 ^ n % 2) = if x.testBit n then 2 ^ n else 0 := by
      rw [← Nat.toNat_testBit]
      cases x.testBit n <;> simp
    have hplace : ∀ p : Fin n, n - (p + 1) = n - 1 - p := by omega
    rw [Nat.mod_pow_succ, ih, htop, Nat.add_comm, List.finRange_succ]
    simp [Function.comp_def, hplace]

theorem toNat_eq_sum_lanes (v : Byte) (d : RegisterDef) :
    v.toNat = ((List.finRange 8).map fun p => if (lanesOf v d)[p].bit then 2 ^ (7 - p.val) else 0).sum := by
  have hsum := mod_two_pow_eq_sum_bits v.toNat 8
  rw [Nat.mod_eq_of_lt v.isLt] at hsum
  simpa only [BitVec.testBit_toNat, lanesOf_get, laneAt_bit] using hsum

end Machine

/-! ### The statements of 42_response_decode.md -/

open Machine

/-- Settles O21: each lane is what R162 says of its index, and the kept ones are the wired lanes of the non-reserved places. -/
theorem decbitsSplitsTheByte : Obligations.DecbitsSplitsTheByte := by
  refine fun s v d => ⟨lanesOf v d, rfl, fun p => ⟨?lane, ?bit⟩, bitListOf_lanesOf_eq_bitVectorOf v d, fun h => ?allReserved,
    fun h => ?noneReserved⟩
  case lane => exact (lanesOf_get v d p).trans (laneAt_eq v d p)
  case bit => exact (bitAtIndex_eq v p).symm
  case allReserved => rw [bitListOf_lanesOf, keptPlaces_eq_nil h, List.map_nil]
  case noneReserved => rw [bitListOf_lanesOf, keptPlaces_eq_finRange h, List.length_map, List.length_finRange]

/-- Settles O24: kept or not, the eight lanes hold all bits of the byte, the most significant first. -/
theorem decbitsLosesNothing : Obligations.DecbitsLosesNothing :=
  fun _ v d _ => ⟨lanesOf v d, rfl, toNat_eq_sum_lanes v d⟩

/-- Settles O25: the BitVectors of two bytes are compared lane by lane at the places the definition keeps. -/
theorem reservedBitsDoNotShow : Obligations.ReservedBitsDoNotShow :=
  fun _ v v' d => ⟨lanesOf v d, lanesOf v' d, rfl, rfl, bitListOf_lanesOf_inj⟩

/-- Settles O27: the write frame carries the byte written, so by T-ECHO the response does, and a valid table has the definition to
decode it against. -/
theorem writeEchoDecodesToTheWrittenBits : Obligations.WriteEchoDecodesToTheWrittenBits := by
  intro s c r v g hwf hc hr
  obtain ⟨d, hd, hlookup⟩ := exists_lookup_of_wf hwf hr
  refine ⟨writeFrame c r v, d, exec_encwr_in_range hc hr v s, hlookup, hd, fun hecho => ⟨lanesOf v d, ?decrsp, rfl,
    bitListOf_lanesOf_eq_bitVectorOf v d⟩⟩
  case decrsp =>
    have hdata : g.data = v := hecho g rfl
    rw [← hdata]
    rfl

/-- Settles O20: the meaning of `DECRSP` names the second byte alone. -/
theorem decrspTakesTheSecondByte : Obligations.DecrspTakesTheSecondByte :=
  fun _ _ _ => rfl

end Sys2Proof
end

section
/-! PROOFS. Runs of several steps; what the block's answer to a line, and the transport's answer to a frame, do to the state, one
rule each; and the statements of 43_access_sequences.md about single steps and silence, assembled from them. -/

namespace Sys2Proof

namespace Machine

/-! ### Runs of several steps -/

theorem runSteps_one {s t : State} (h : step s = .next t) : runSteps 1 s = .next t := runSteps_next h

/-- A run goes on where the one before it stopped. -/
theorem runSteps_add {m : Nat} {s t : State} (n : Nat) (h : runSteps m s = .next t) : runSteps (m + n) s = runSteps n t := by
  induction m generalizing s with
  | zero =>
    cases h
    rw [Nat.zero_add]
  | succ m ih =>
    rw [Nat.succ_add]
    cases hs : step s with
    | next u =>
      rw [runSteps_next hs] at h ⊢
      exact ih h
    | fault r => simp [runSteps, hs] at h
    | refused r => simp [runSteps, hs] at h

theorem runSteps_trans {m n : Nat} {s t u : State} (h : runSteps m s = .next t) (h' : runSteps n t = .next u) :
    runSteps (m + n) s = .next u :=
  (runSteps_add n h).trans h'

/-! ### What the block's answer to a line does (R187, R205) -/

/-- What a variable holds of a response: its result, and of an error nothing (R95, R205). -/
def resultOf : Response → Option Value
  | .error _ => none
  | .definition d => some (.definition d)
  | .name n => some (.name n)
  | .frame f => some (.frame f)
  | .value v => some (.byte v)
  | .lanes l => some (.bits (bitListOf l))

theorem keepResponse_of_resultOf {r : Response} {v : Value} (h : resultOf r = some v) (dst : Option Var) (s : State) :
    keepResponse dst r s = bindDst dst v { s with outcome := none } := by
  cases r with
  | error k => cases h
  | definition | name | frame | value | lanes => cases h; rfl

theorem finishLine_response {s : State} {r : Response} (dst : Option Var) (hp : s.pending = none) (hr : s.resp = some r) :
    finishLine dst (.next s) = .next (keepResponse dst r s) :=
  congrArg Host.Outcome.next (settle_response hp hr)

/-- The step of a line that presents a request: the caller keeps the block's response. -/
theorem step_response {s : State} {l : Line} {rest : List Line} {more : List (List Line)} {p : Presented} {r : Response}
    (hp : s.pending = none) (hl : takeLine s.current s.agenda = some (l, rest, more)) (hv : presentLine s.vars l.op = some p)
    (hx : exec (decode p) { s with current := rest, agenda := more } =
      .next { s with current := rest, agenda := more, resp := some r }) :
    step s = .next (keepResponse l.dst r { s with current := rest, agenda := more, resp := some r }) := by
  rw [step_presented hp hl hv, hx]
  exact finishLine_response l.dst hp rfl

/-! ### What the transport's answer does (R180, R206) -/

section
variable {s : State} {f : Frame} {as : List XferAnswer}

theorem step_answer {a : XferAnswer} (hp : s.pending = some f) (ha : s.answers = a :: as) :
    step s = .next (deliver f a { s with resp := none, answers := as, draws := s.draws + 1 }) := by
  rw [step_blocked hp, answerExchange, nextAnswer_cons ha, consumeAnswer, release, ha]
  rfl

theorem step_received {g : Frame} (hp : s.pending = some f) (ha : s.answers = .frame g :: as) :
    step s = .next (bindDst s.awaiting (.frame g) { s with
      resp := none, pending := none, awaiting := none, bus := s.bus ++ [{ sent := f, got := some g }], answers := as
      draws := s.draws + 1 }) :=
  step_answer hp ha

theorem step_failed (hp : s.pending = some f) (ha : s.answers = .failure :: as) :
    step s = .next { s with
      resp := none, pending := none, awaiting := none, bus := s.bus ++ [{ sent := f, got := none }], answers := as
      draws := s.draws + 1, current := [], outcome := some .transportFailure } :=
  step_answer hp ha

theorem step_silent (hp : s.pending = some f) (ha : s.answers = .silent :: as) :
    step s = .next { s with resp := none, answers := as, draws := s.draws + 1 } :=
  step_answer hp ha

/-- Without an answer from outside the oracle's stands in for it (log entry 4). -/
theorem step_oracle (hp : s.pending = some f) (ha : s.answers = []) :
    step s = step { s with answers := [Config.transport s.bus s.draws f] } := by
  rw [step_blocked hp, step_blocked (s := { s with answers := [Config.transport s.bus s.draws f] }) hp]
  simp [answerExchange, nextAnswer, consumeAnswer, release, ha]

end

theorem startExchange_refused {s : State} (h : s.pending ≠ none) (f : Frame) :
    startExchange f s = .refused .interleavedExchange := by
  obtain ⟨g, hg⟩ := Option.ne_none_iff_exists'.mp h
  simp [startExchange, hg]

end Machine

/-! ### The statements of 43_access_sequences.md about single steps and silence -/

open Machine

/-- Settles O23: both classes of frames mean `XFER`, which sends where no exchange is in progress and is refused where one is. -/
theorem framesAreHandedToTheTransport : Obligations.FramesAreHandedToTheTransport := by
  refine fun s c r d f => ⟨fun hp => ⟨startExchange_next.mpr ⟨hp, rfl⟩, startExchange_next.mpr ⟨hp, rfl⟩, ?_⟩,
    fun hp => ⟨startExchange_refused hp _, startExchange_refused hp _⟩⟩
  rw [exec_decode_frame]
  exact startExchange_next.mpr ⟨hp, rfl⟩

/-- Settles O37: an error ends the sequence, a result is bound, and after a frame the caller waits. -/
theorem callerKeepsTheResponse : Obligations.CallerKeepsTheResponse := by
  refine fun s dst x r v k f => ⟨finishLine_response dst, fun hp hr hv => ?result,
    fun hp => congrArg Host.Outcome.next (settle_pending hp)⟩
  case result =>
    have hres : resultOf r = some v := by
      obtain ⟨_, rfl, rfl⟩ | ⟨_, rfl, rfl⟩ | ⟨_, rfl, rfl⟩ | ⟨_, rfl, rfl⟩ | ⟨_, rfl, rfl⟩ := hv <;> rfl
    have hkeep := fun dst => (finishLine_response dst hp hr).trans (congrArg _ (keepResponse_of_resultOf hres dst s))
    exact ⟨hkeep (some x), hkeep none⟩

/-- Settles O39: the transport's rule for each answer, and the oracle's in place of a missing one. -/
theorem transportAnswers : Obligations.TransportAnswers := by
  refine fun s f g as hp => ⟨fun ha => ?received, step_failed hp, step_silent hp, fun ha => ⟨_, step_oracle hp ha⟩⟩
  case received =>
    rw [step_received hp ha]
    cases s.awaiting <;> rfl

/-- Settles O40, by induction on the number of silent draws. -/
theorem silentTransportLeavesTheCallerStuck : Obligations.SilentTransportLeavesTheCallerStuck := by
  intro n
  induction n with
  | zero => exact fun s f as hp ha => runSteps_one (step_silent hp ha)
  | succ n ih =>
    intro s f as hp ha
    have hdraws : s.draws + 1 + (n + 1) = s.draws + (n + 1 + 1) := by omega
    rw [runSteps_next (step_silent hp ha), ← hdraws]
    exact ih { s with resp := none, answers := _, draws := s.draws + 1 } f as hp rfl

/-- Settles O47: the response the caller keeps is the error. -/
theorem errorEndsTheSequence : Obligations.ErrorEndsTheSequence :=
  fun _ _ _ _ _ _ hp hl hv hx => step_response hp hl hv hx

end Sys2Proof
end

section
/-! PROOFS. How the block answers each line of the named sequences; one exchange of a register access, received or failed; a pass of
`RDBITS` from it, and the passes of `DUMP` from that; and the statements of 43_access_sequences.md about whole sequences, assembled
from them. -/

namespace Sys2Proof

namespace Machine

/-! ### Arguments and variables (R95) -/

section
variable {vars : List (Var × Value)} {x : Var}

theorem defVar_of_lookupVar {d : RegisterDef} (h : lookupVar vars x = some (.definition d)) : defVar vars x = some d := by
  simp [defVar, h]

theorem frameVar_of_lookupVar {f : Frame} (h : lookupVar vars x = some (.frame f)) : frameVar vars x = some f := by
  simp [frameVar, h]

theorem byteVar_of_lookupVar {v : Byte} (h : lookupVar vars x = some (.byte v)) : byteVar vars x = some v := by
  simp [byteVar, h]

/-- `d.address` on an 8-bit port is the address it was looked up by (R84). -/
theorem evalByte_address {d : RegisterDef} {a : Byte} (h : lookupVar vars x = some (.definition d))
    (ha : d.address.toNat = a.toNat) : evalByte vars (.address x) = some a := by
  have hport : d.address.setWidth 8 = a := by
    rw [← BitVec.toNat_inj, BitVec.toNat_setWidth, ha]
    exact Nat.mod_eq_of_lt a.isLt
  rw [evalByte, defVar_of_lookupVar h, Option.map_some, hport]

end

theorem ne_of_idx_ne {x y : Var} (h : y.idx ≠ x.idx) : x ≠ y := fun hxy => h (congrArg Var.idx hxy.symm)

/-! ### How the block answers a line -/

/-- The line's right side presents an instruction in `s`, and the block answers it with `r`, over the table of `s` whatever else the
state holds. -/
def LineAnswered (s : State) (op : LineOp) (r : Response) : Prop :=
  ∃ i : Instr, i.wf = true ∧ presentLine s.vars op = some (encode i) ∧
    ∀ u : State, u.regtab = s.regtab → exec i u = .next { u with resp := some r }

section
variable {s : State} {chip raddr wdata : Byte}

theorem lineAnswered_lookup {d : RegisterDef} (h : WfTable s.regtab) (hd : s.regtab[raddr.toNat]? = some d) :
    LineAnswered s (.lookup (.lit raddr)) (.definition d) := by
  refine ⟨.lookup raddr, rfl, rfl, fun u hu => ?_⟩
  rw [← hu] at h hd
  exact (exec_lookup_definition_iff_of_wf h).mpr hd

theorem lineAnswered_encrd {a : ByteArg} (ha : evalByte s.vars a = some raddr) (hc : chip.toNat ≤ 7) (hr : raddr.toNat ≤ 0x1F) :
    LineAnswered s (.encrd (.lit chip) a) (.frame (readFrame chip raddr)) :=
  ⟨.encrd chip raddr, rfl, congrArg (Option.map fun r => encode (.encrd chip r)) ha, fun u _ => exec_encrd_in_range hc hr u⟩

theorem lineAnswered_encrd_error (h : 7 < chip.toNat ∨ 0x1F < raddr.toNat) :
    LineAnswered s (.encrd (.lit chip) (.lit raddr)) (.error .addressOutOfRange) :=
  ⟨.encrd chip raddr, rfl, rfl, fun u _ => exec_encrd_out_of_range h u⟩

theorem lineAnswered_encwr (hc : chip.toNat ≤ 7) (hr : raddr.toNat ≤ 0x1F) :
    LineAnswered s (.encwr (.lit chip) (.lit raddr) (.lit wdata)) (.frame (writeFrame chip raddr wdata)) :=
  ⟨.encwr chip raddr wdata, rfl, rfl, fun u _ => exec_encwr_in_range hc hr wdata u⟩

theorem lineAnswered_encwr_error (h : 7 < chip.toNat ∨ 0x1F < raddr.toNat) :
    LineAnswered s (.encwr (.lit chip) (.lit raddr) (.lit wdata)) (.error .addressOutOfRange) :=
  ⟨.encwr chip raddr wdata, rfl, rfl, fun u _ => exec_encwr_out_of_range h wdata u⟩

theorem lineAnswered_decrsp {x : Var} {g : Frame} (h : lookupVar s.vars x = some (.frame g)) :
    LineAnswered s (.decrsp (.var x)) (.value g.data) :=
  ⟨.decrsp g, rfl, congrArg (Option.map fun f => encode (.decrsp f)) (frameVar_of_lookupVar h), fun _ _ => rfl⟩

theorem lineAnswered_decbits {x y : Var} {v : Byte} {d : RegisterDef} (hv : lookupVar s.vars x = some (.byte v))
    (hd : lookupVar s.vars y = some (.definition d)) :
    LineAnswered s (.decbits (.var x) (.var y)) (.lanes (lanesOf v d)) :=
  ⟨.decbits v d, rfl, by simp [presentLine, evalByte, evalDef, byteVar_of_lookupVar hv, defVar_of_lookupVar hd], fun _ _ => rfl⟩

end

/-- The step of a line whose answer is known: the caller keeps it. -/
theorem step_answered {s : State} {dst : Option Var} {op : LineOp} {r : Response} {rest : List Line} (hp : s.pending = none)
    (hc : s.current = { dst := dst, op := op } :: rest) (h : LineAnswered s op r) :
    step s = .next (keepResponse dst r { s with current := rest, resp := some r }) := by
  obtain ⟨i, hwf, hv, hx⟩ := h
  refine step_response (l := { dst := dst, op := op }) (more := s.agenda) hp ?taken hv ?answered
  case taken => rw [hc, takeLine]
  case answered =>
    rw [decodeOfEncode i hwf]
    exact hx _ rfl

/-! ### One exchange (R183, R184) -/

/-- The two lines that make one exchange: a line that builds the frame `f`, and `XFER` of it. -/
def exchangeLines (op : LineOp) (k : Nat) : List Line :=
  [{ dst := some (varF k), op := op }, { dst := some (varG k), op := .xfer (.var (varF k)) }]

/-- From `s` to `t` the caller has made one exchange, of `f` answered by `g`, without an error; `rest` is left of its sequence and
`as` of the given answers. -/
structure Exchanged (s t : State) (f g : Frame) (rest : List Line) (as : List XferAnswer) : Prop where
  bus : t.bus = s.bus ++ [{ sent := f, got := some g }]
  pending : t.pending = none
  outcome : t.outcome = none
  current : t.current = rest
  agenda : t.agenda = s.agenda
  answers : t.answers = as
  regtab : t.regtab = s.regtab

/-- From `s` to `t` the exchange of `f` has failed and has ended the caller's sequence (R206). -/
structure ExchangeFailed (s t : State) (f : Frame) (as : List XferAnswer) : Prop where
  bus : t.bus = s.bus ++ [{ sent := f, got := none }]
  pending : t.pending = none
  outcome : t.outcome = some .transportFailure
  current : t.current = []
  agenda : t.agenda = s.agenda
  answers : t.answers = as
  regtab : t.regtab = s.regtab
  resp : t.resp = none

section
variable {s : State} {op : LineOp} {k : Nat} {f g : Frame} {rest : List Line} {as : List XferAnswer}

/-- The step of a line `XFER f`: the frame goes out, and the caller waits (R180). -/
theorem step_sent {dst : Option Var} {x : Var} (hp : s.pending = none)
    (hc : s.current = { dst := dst, op := .xfer (.var x) } :: rest) (hf : lookupVar s.vars x = some (.frame f)) :
    step s = .next { s with current := rest, resp := none, pending := some f, awaiting := dst, outcome := none } := by
  have hl : takeLine s.current s.agenda = some ({ dst := dst, op := .xfer (.var x) }, rest, s.agenda) := by rw [hc, takeLine]
  have hv : presentLine s.vars (.xfer (.var x)) = some (.frame f) := by
    rw [presentLine, evalFrame, frameVar_of_lookupVar hf, Option.map_some]
  rw [step_presented hp hl hv, exec_decode_frame, startExchange_next (s := { s with current := rest }).mpr ⟨hp, rfl⟩,
    finishLine_next, settle_pending rfl]

/-- The two lines send the frame. -/
theorem run_send (hp : s.pending = none) (hc : s.current = exchangeLines op k ++ rest) (hop : LineAnswered s op (.frame f)) :
    runSteps 2 s = .next { bindVar (varF k) (.frame f) s with
      current := rest, resp := none, pending := some f, awaiting := some (varG k), outcome := none } :=
  runSteps_trans (m := 1) (n := 1) (runSteps_one (step_answered hp hc hop))
    (runSteps_one (step_sent hp rfl (lookupVar_cons_self ..)))

/-- An exchange whose answer is a frame; of the variables it sets the two of its lines. -/
theorem run_exchange (hp : s.pending = none) (hc : s.current = exchangeLines op k ++ rest) (hop : LineAnswered s op (.frame f))
    (ha : s.answers = .frame g :: as) :
    ∃ t, runSteps 3 s = .next t ∧ Exchanged s t f g rest as ∧ lookupVar t.vars (varF k) = some (.frame f) ∧
      lookupVar t.vars (varG k) = some (.frame g) ∧
      ∀ x, x ≠ varF k → x ≠ varG k → lookupVar t.vars x = lookupVar s.vars x := by
  have hFG : varG k ≠ varF k := by simp [varF, varG]
  refine ⟨_, runSteps_trans (m := 2) (n := 1) (run_send hp hc hop) (runSteps_one (step_received rfl ha)),
    ⟨rfl, rfl, rfl, rfl, rfl, rfl, rfl⟩, ?sent, lookupVar_cons_self .., fun x hF hG => ?others⟩
  case sent => exact (lookupVar_bind_other hFG _ _).trans (lookupVar_cons_self ..)
  case others => exact (lookupVar_bind_other hG.symm _ _).trans (lookupVar_bind_other hF.symm _ _)

/-- An exchange that fails; of the variables it sets the first line's. -/
theorem run_failed_exchange (hp : s.pending = none) (hc : s.current = exchangeLines op k ++ rest)
    (hop : LineAnswered s op (.frame f)) (ha : s.answers = .failure :: as) :
    ∃ t, runSteps 3 s = .next t ∧ ExchangeFailed s t f as ∧
      ∀ x, x ≠ varF k → lookupVar t.vars x = lookupVar s.vars x :=
  ⟨_, runSteps_trans (m := 2) (n := 1) (run_send hp hc hop) (runSteps_one (step_failed rfl ha)),
    ⟨rfl, rfl, rfl, rfl, rfl, rfl, rfl, rfl⟩, fun _ hF => lookupVar_bind_other hF.symm _ _⟩

/-- The line `v <- DECRSP g` of pass `k`. -/
def decrspLine (k : Nat) : Line := { dst := some (varV k), op := .decrsp (.var (varG k)) }

/-- An exchange and the `DECRSP` of its answer: the byte kept is the answer's second (R161). -/
theorem run_exchange_decrsp (hp : s.pending = none) (hc : s.current = exchangeLines op k ++ decrspLine k :: rest)
    (hop : LineAnswered s op (.frame f)) (ha : s.answers = .frame g :: as) :
    ∃ t, runSteps 4 s = .next t ∧ Exchanged s t f g rest as ∧ lookupVar t.vars (varV k) = some (.byte g.data) ∧
      ∀ x, x ≠ varF k → x ≠ varG k → x ≠ varV k → lookupVar t.vars x = lookupVar s.vars x := by
  obtain ⟨t, hrun, ht, -, hG, hothers⟩ := run_exchange hp hc hop ha
  exact ⟨_, runSteps_trans (m := 3) (n := 1) hrun (runSteps_one (step_answered ht.pending ht.current (lineAnswered_decrsp hG))),
    ⟨ht.bus, ht.pending, rfl, rfl, ht.agenda, ht.answers, ht.regtab⟩, lookupVar_cons_self ..,
    fun x hxF hxG hxV => (lookupVar_bind_other hxV.symm _ _).trans (hothers x hxF hxG)⟩

end

/-! ### The forms of a register access (R183, R184) -/

/-- Each form of a register access opens with the exchange lines of its encoder, which checks the operands and builds the form's
frame. -/
theorem registerAccess_opens {s : State} {chip raddr wdata : Byte} {k : Nat} {rest : List Line} {f : Frame}
    (h : s.current = rdreg chip raddr k ++ rest ∧ f = readFrame chip raddr ∨
      (s.current = wrreg chip raddr wdata k ++ rest ∨ s.current = wrregSend chip raddr wdata k ++ rest) ∧
        f = writeFrame chip raddr wdata) :
    ∃ op rest', s.current = exchangeLines op k ++ rest' ∧
      (7 < chip.toNat ∨ 0x1F < raddr.toNat → LineAnswered s op (.error .addressOutOfRange)) ∧
      (chip.toNat ≤ 7 → raddr.toNat ≤ 0x1F → LineAnswered s op (.frame f)) := by
  obtain ⟨hc, rfl⟩ | ⟨hc | hc, rfl⟩ := h
  · exact ⟨_, _, hc, lineAnswered_encrd_error, lineAnswered_encrd rfl⟩
  · exact ⟨_, _, hc, lineAnswered_encwr_error, lineAnswered_encwr⟩
  · exact ⟨_, _, hc, lineAnswered_encwr_error, lineAnswered_encwr⟩

/-! ### A pass of `RDBITS` (R185) -/

/-- The variables of pass `k` hold a definition, a value, and the BitVector of the two. -/
structure HoldsTriple (t : State) (k : Nat) (d : RegisterDef) (v : Byte) : Prop where
  definition : lookupVar t.vars (varD k) = some (.definition d)
  value : lookupVar t.vars (varV k) = some (.byte v)
  bits : lookupVar t.vars (varBv k) = some (.bits (bitVectorOf v d))

section
variable {s : State} {chip raddr : Byte} {k : Nat} {g : Frame} {rest : List Line} {as : List XferAnswer}

/-- The state after the first line of `RDBITS`, `d <- LOOKUP raddr`: at the line that builds the read frame. -/
def lookedUp (chip : Byte) (k : Nat) (d : RegisterDef) (rest : List Line) (s : State) : State :=
  bindVar (varD k) (.definition d) { s with
    current := exchangeLines (.encrd (.lit chip) (.address (varD k))) k ++ decrspLine k ::
      { dst := some (varBv k), op := .decbits (.var (varV k)) (.var (varD k)) } :: rest
    resp := some (.definition d), outcome := none }

/-- Over a valid table the first line finds the definition, and the next builds the read frame of the very address (R84). -/
theorem run_lookup (hwf : WfTable s.regtab) (hp : s.pending = none) (hc : s.current = rdbits chip raddr k ++ rest)
    (hchip : chip.toNat ≤ 7) (hraddr : raddr.toNat ≤ 0x1F) :
    ∃ d, s.regtab[raddr.toNat]? = some d ∧ runSteps 1 s = .next (lookedUp chip k d rest s) ∧
      LineAnswered (lookedUp chip k d rest s) (.encrd (.lit chip) (.address (varD k))) (.frame (readFrame chip raddr)) := by
  obtain ⟨d, hd, -⟩ := exists_lookup_of_wf hwf hraddr
  obtain ⟨-, haddr⟩ := (getElem?_eq_some_iff_of_wf hwf).mp hd
  exact ⟨d, hd, runSteps_one (step_answered hp hc (lineAnswered_lookup hwf hd)),
    lineAnswered_encrd (evalByte_address (lookupVar_cons_self ..) haddr) hchip hraddr⟩

theorem run_rdbits (hwf : WfTable s.regtab) (hp : s.pending = none) (hc : s.current = rdbits chip raddr k ++ rest)
    (ha : s.answers = .frame g :: as) (hchip : chip.toNat ≤ 7) (hraddr : raddr.toNat ≤ 0x1F) :
    ∃ t d, runSteps 6 s = .next t ∧ s.regtab[raddr.toNat]? = some d ∧ HoldsTriple t k d g.data ∧
      Exchanged s t (readFrame chip raddr) g rest as ∧ ∀ x : Var, x.idx ≠ k → lookupVar t.vars x = lookupVar s.vars x := by
  obtain ⟨d, hd, hrun, hop⟩ := run_lookup hwf hp hc hchip hraddr
  obtain ⟨t, hrun', ht, hV, hothers⟩ := run_exchange_decrsp (s := lookedUp chip k d rest s) hp rfl hop ha
  have hD : lookupVar t.vars (varD k) = some (.definition d) :=
    (hothers _ (by simp [varD, varF]) (by simp [varD, varG]) (by simp [varD, varV])).trans (lookupVar_cons_self ..)
  refine ⟨_, d, runSteps_trans (m := 5) (n := 1) (runSteps_trans (m := 1) (n := 4) hrun hrun')
    (runSteps_one (step_answered ht.pending ht.current (lineAnswered_decbits hV hD))), hd, ⟨?definition, ?value, ?bits⟩,
    ⟨ht.bus, ht.pending, rfl, rfl, ht.agenda, ht.answers, ht.regtab⟩, fun x hx => ?others⟩
  case definition => exact (lookupVar_bind_other (by simp [varBv, varD]) _ _).trans hD
  case value => exact (lookupVar_bind_other (by simp [varBv, varV]) _ _).trans hV
  case bits =>
    rw [← bitListOf_lanesOf_eq_bitVectorOf]
    exact lookupVar_cons_self ..
  case others =>
    calc lookupVar _ x
      _ = lookupVar t.vars x := lookupVar_bind_other (ne_of_idx_ne hx) _ _
      _ = lookupVar (lookedUp chip k d rest s).vars x :=
          hothers x (ne_of_idx_ne hx).symm (ne_of_idx_ne hx).symm (ne_of_idx_ne hx).symm
      _ = lookupVar s.vars x := lookupVar_bind_other (ne_of_idx_ne hx) _ _

/-- A pass whose exchange fails makes that exchange and sets variables of its own number only (R206). -/
theorem run_failed_rdbits (hwf : WfTable s.regtab) (hp : s.pending = none) (hc : s.current = rdbits chip raddr k ++ rest)
    (ha : s.answers = .failure :: as) (hchip : chip.toNat ≤ 7) (hraddr : raddr.toNat ≤ 0x1F) :
    ∃ t, runSteps 4 s = .next t ∧ ExchangeFailed s t (readFrame chip raddr) as ∧
      ∀ x : Var, x.idx ≠ k → lookupVar t.vars x = lookupVar s.vars x := by
  obtain ⟨d, -, hrun, hop⟩ := run_lookup hwf hp hc hchip hraddr
  obtain ⟨t, hrun', ht, hothers⟩ := run_failed_exchange (s := lookedUp chip k d rest s) hp rfl hop ha
  exact ⟨t, runSteps_trans (m := 1) (n := 3) hrun hrun',
    ⟨ht.bus, ht.pending, ht.outcome, ht.current, ht.agenda, ht.answers, ht.regtab, ht.resp⟩,
    fun x hx => (hothers x (ne_of_idx_ne hx).symm).trans (lookupVar_bind_other (ne_of_idx_ne hx) _ _)⟩

/-- What changes no variable of number `k` leaves the triple of pass `k`. -/
theorem HoldsTriple.of_lookupVar_eq {t u : State} {d : RegisterDef} {v : Byte} (h : HoldsTriple t k d v)
    (hvars : ∀ x : Var, x.idx = k → lookupVar u.vars x = lookupVar t.vars x) : HoldsTriple u k d v where
  definition := (hvars _ rfl).trans h.definition
  value := (hvars _ rfl).trans h.value
  bits := (hvars _ rfl).trans h.bits

end

/-! ### The passes of `DUMP` (R186) -/

/-- The lines of the first `n` passes of `DUMP`. -/
def dumpPasses (chip : Byte) (n : Nat) : List Line := (List.range n).flatMap fun a => rdbits chip (BitVec.ofNat 8 a) a

theorem dump_eq_dumpPasses (chip : Byte) : dump chip = dumpPasses chip 32 := rfl

theorem dumpPasses_succ (chip : Byte) (n : Nat) :
    dumpPasses chip (n + 1) = dumpPasses chip n ++ rdbits chip (BitVec.ofNat 8 n) n := by
  simp [dumpPasses, List.range_succ]

/-- Pass `n` comes right after the first `n` passes. -/
theorem exists_dump_eq_append (chip : Byte) {n : Nat} (h : n < 32) :
    ∃ more, dump chip = dumpPasses chip n ++ (rdbits chip (BitVec.ofNat 8 n) n ++ more) := by
  obtain ⟨m, hm⟩ := Nat.exists_eq_add_of_lt h
  rw [dump_eq_dumpPasses, hm, Nat.add_right_comm, dumpPasses, List.range_add, List.flatMap_append, ← dumpPasses, dumpPasses_succ,
    List.append_assoc]
  exact ⟨_, rfl⟩

/-- The exchanges of the first passes, one an answer (R57, R186). -/
def dumpExchanges (chip : Byte) (gs : List Frame) : List Exchange :=
  gs.mapIdx fun a g => { sent := readFrame chip (BitVec.ofNat 8 a), got := some g }

theorem dumpExchanges_concat (chip : Byte) (gs : List Frame) (g : Frame) :
    dumpExchanges chip (gs ++ [g]) =
      dumpExchanges chip gs ++ [{ sent := readFrame chip (BitVec.ofNat 8 gs.length), got := some g }] :=
  List.mapIdx_concat

/-- From `s` to `t` the caller has run one pass of `DUMP chip` for each of the answers `gs`. -/
structure Dumped (chip : Byte) (gs : List Frame) (s t : State) (rest : List Line) (as : List XferAnswer) : Prop where
  bus : t.bus = s.bus ++ dumpExchanges chip gs
  pending : t.pending = none
  outcome : gs ≠ [] → t.outcome = none
  current : t.current = rest
  agenda : t.agenda = s.agenda
  answers : t.answers = as
  regtab : t.regtab = s.regtab
  triples : ∀ a (h : a < gs.length), ∃ d, s.regtab[a]? = some d ∧ HoldsTriple t a d gs[a].data

theorem toNat_ofNat_of_lt_32 {n : Nat} (h : n < 32) : (BitVec.ofNat 8 n).toNat = n := Nat.mod_eq_of_lt (by omega)

/-- Each answer has the pass of its place, by induction on the answers from the last one back: a pass sets only variables of its own
number, so the triples before it stand. -/
theorem run_dumpPasses {s : State} {chip : Byte} (hwf : WfTable s.regtab) (hp : s.pending = none) (hchip : chip.toNat ≤ 7)
    (gs : List Frame) :
    ∀ (rest : List Line) (as : List XferAnswer), gs.length ≤ 32 → s.current = dumpPasses chip gs.length ++ rest →
      s.answers = gs.map XferAnswer.frame ++ as →
      ∃ t, runSteps (6 * gs.length) s = .next t ∧ Dumped chip gs s t rest as := by
  induction gs using List.reverseRecOn with
  | nil =>
    intro rest as _ hc ha
    exact ⟨s, rfl, (List.append_nil _).symm, hp, fun h => absurd rfl h, hc, rfl, ha, rfl, fun _ h => absurd h (Nat.not_lt_zero _)⟩
  | append_singleton gs g ih =>
    intro rest as hlen hc ha
    rw [List.length_append, List.length_singleton] at hlen hc ⊢
    rw [dumpPasses_succ, List.append_assoc] at hc
    rw [List.map_append, List.append_assoc] at ha
    obtain ⟨t, hrun, ht⟩ := ih _ _ (by omega) hc ha
    have hn : (BitVec.ofNat 8 gs.length).toNat = gs.length := toNat_ofNat_of_lt_32 (by omega)
    obtain ⟨u, d, hrun', hd, htriple, hu, hothers⟩ :=
      run_rdbits (ht.regtab ▸ hwf) ht.pending ht.current ht.answers hchip (by omega)
    refine ⟨u, runSteps_trans hrun hrun', ?bus, hu.pending, fun _ => hu.outcome, hu.current, hu.agenda.trans ht.agenda, hu.answers,
      hu.regtab.trans ht.regtab, fun a h => ?triples⟩
    case bus => rw [hu.bus, ht.bus, dumpExchanges_concat, List.append_assoc]
    case triples =>
      rw [List.length_append, List.length_singleton] at h
      obtain hlt | rfl : a < gs.length ∨ a = gs.length := by omega
      · obtain ⟨e, he, hold⟩ := ht.triples a hlt
        rw [List.getElem_append_left hlt]
        exact ⟨e, he, hold.of_lookupVar_eq fun x hx => hothers x (by omega)⟩
      · rw [hn, ht.regtab] at hd
        rw [List.getElem_concat_length rfl]
        exact ⟨d, hd, htriple⟩

end Machine

/-! ### The statements of 43_access_sequences.md about whole sequences -/

open Machine

/-- Settles O48: the exchange of the read frame and the `DECRSP` of its answer. -/
theorem rdregReadsTheByte : Obligations.RdregReadsTheByte := by
  intro s chip raddr k rest g as hp hc ha hchip hraddr
  obtain ⟨t, hrun, ht, hV, -⟩ := run_exchange_decrsp hp hc (lineAnswered_encrd rfl hchip hraddr) ha
  exact ⟨t, hrun, hV, fun content hcur => hcur g rfl ▸ hV, ht.bus, ht.pending, ht.outcome, ht.current, ht.agenda, ht.answers,
    ht.regtab⟩

/-- Settles O49: the exchange of the write frame and the `DECRSP` of its answer. -/
theorem wrregSendsTheWriteFrame : Obligations.WrregSendsTheWriteFrame := by
  intro s chip raddr wdata k rest g as hp hc ha hchip hraddr
  obtain ⟨t, hrun, ht, hV, -⟩ := run_exchange_decrsp hp hc (lineAnswered_encwr hchip hraddr) ha
  have hecho : TEcho (writeFrame chip raddr wdata) (.frame g) → lookupVar t.vars (varV k) = some (.byte wdata) := by
    intro h
    have hdata : g.data = wdata := h g rfl
    exact hdata ▸ hV
  exact ⟨t, hrun, ht.bus, hV, hecho, ht.pending, ht.outcome, ht.current, ht.agenda, ht.answers, ht.regtab⟩

/-- Settles O55: the exchange of the write frame alone. -/
theorem wrregMayLeaveTheResponse : Obligations.WrregMayLeaveTheResponse := by
  intro s chip raddr wdata k rest g as hp hc ha hchip hraddr
  obtain ⟨t, hrun, ht, hF, hG, hothers⟩ := run_exchange hp hc (lineAnswered_encwr hchip hraddr) ha
  exact ⟨t, hrun, ht.bus, hF, hG, hothers, ht.pending, ht.outcome, ht.current, ht.agenda, ht.answers, ht.regtab⟩

/-- Settles O50: a bad operand is the first line's error, and a failed exchange is the last thing done. -/
theorem registerAccessFailsFast : Obligations.RegisterAccessFailsFast := by
  intro s chip raddr wdata k rest as f hp hform
  obtain ⟨op, rest', hc, hbad, hgood⟩ := registerAccess_opens hform
  refine ⟨fun h => step_answered hp hc (hbad h), fun hchip hraddr ha => ?_⟩
  obtain ⟨t, hrun, ht, hothers⟩ := run_failed_exchange hp hc (hgood hchip hraddr) ha
  exact ⟨t, hrun, ht.outcome, ht.current, ht.agenda, ht.pending, ht.resp, ht.bus, ht.answers, ht.regtab,
    hothers _ (by simp [varV, varF])⟩

/-- Settles O51: one pass of `RDBITS`. -/
theorem rdbitsReadsAndDecodes : Obligations.RdbitsReadsAndDecodes := by
  intro s chip raddr k rest g as hwf hp hc ha hchip hraddr
  obtain ⟨t, d, hrun, hd, htriple, ht, hothers⟩ := run_rdbits hwf hp hc ha hchip hraddr
  exact ⟨t, d, hrun, hd, htriple.definition, htriple.value, htriple.bits, ht.bus, ht.pending, ht.outcome, ht.current, ht.agenda,
    ht.answers, ht.regtab, hothers⟩

/-- Settles O53: the passes for all 32 answers. -/
theorem dumpReadsEveryRegister : Obligations.DumpReadsEveryRegister := by
  intro s chip rest gs as hwf hp hc hlen ha hchip
  rw [dump_eq_dumpPasses, ← hlen] at hc
  obtain ⟨t, hrun, ht⟩ := run_dumpPasses hwf hp hchip gs rest as hlen.le hc ha
  rw [hlen] at hrun
  refine ⟨t, hrun, ht.pending, ht.outcome (by rintro rfl; cases hlen), ht.current, ht.answers, ht.regtab, ht.bus, fun a h => ?_⟩
  obtain ⟨d, hd, htriple⟩ := ht.triples a h
  exact ⟨d, hd, ((getElem?_eq_some_iff_of_wf hwf).mp hd).2, htriple.definition, htriple.value, htriple.bits⟩

/-- Settles O54: the passes for the answers given, and the pass of the next register, whose exchange fails. -/
theorem dumpStopsAtTheFirstFailure : Obligations.DumpStopsAtTheFirstFailure := by
  intro s chip rest gs as hwf hp hc hlen ha hchip
  obtain ⟨more, hmore⟩ := exists_dump_eq_append chip hlen
  rw [hmore, List.append_assoc, List.append_assoc] at hc
  obtain ⟨t, hrun, ht⟩ := run_dumpPasses hwf hp hchip gs _ _ hlen.le hc ha
  have hn : (BitVec.ofNat 8 gs.length).toNat = gs.length := toNat_ofNat_of_lt_32 hlen
  obtain ⟨u, hrun', hu, hothers⟩ :=
    run_failed_rdbits (ht.regtab ▸ hwf) ht.pending ht.current ht.answers hchip (by omega)
  refine ⟨u, runSteps_trans hrun hrun', hu.pending, hu.outcome, hu.current, hu.agenda.trans ht.agenda, hu.answers,
    hu.regtab.trans ht.regtab, hu.bus.trans (congrArg (· ++ _) ht.bus), fun a h => ?_⟩
  obtain ⟨d, hd, htriple⟩ := ht.triples a h
  have hstands : HoldsTriple u a d gs[a].data := htriple.of_lookupVar_eq fun x hx => hothers x (by omega)
  exact ⟨d, hd, ((getElem?_eq_some_iff_of_wf hwf).mp hd).2, hstands.definition, hstands.value, hstands.bits⟩

end Sys2Proof
end

section
/-! PROOFS. Which error each operation of the block raises, and exactly when; what the `err` port shows of a response; how `RDBITS`
ends with a bad operand; and the statements of 60_exceptions.md, assembled from them. -/

namespace Sys2Proof

theorem eq_six_or_seven_of_reserved_mnemonic :
    ∀ op : BitVec 3, (decode (.request { Request.zero with op := op })).mnemonic = "RESERVED" → op = 6 ∨ op = 7 := by
  decide

/-- The codes that decode to the reserved row are 6 and 7, whatever the other ports hold (R92, R207). -/
theorem decode_request_reserved_iff {q : Request} : (∃ op, decode (.request q) = .reserved op) ↔ q.op = 6 ∨ q.op = 7 := by
  refine ⟨fun ⟨op, h⟩ => ?_, fun h => ⟨q.op, decode_of_six_le_op ((six_le_toNat_iff q.op).mpr h)⟩⟩
  have hrow : (decode (.request q)).mnemonic = "RESERVED" := congrArg Instr.mnemonic h
  exact eq_six_or_seven_of_reserved_mnemonic q.op ((decode_request_mnemonic q).symm.trans hrow)

namespace Machine

/-! ### Which error an operation raises, and when (R202 to R204, R207) -/

/-- An operation gives one response. -/
theorem exec_eq_iff_of_answered {i : Instr} {s : State} {r r' : Response} (h : exec i s = .next { s with resp := some r }) :
    exec i s = .next { s with resp := some r' } ↔ r = r' := by
  rw [h, Host.Outcome.next.injEq]
  exact drive_inj

/-- An operation that raises one kind for one cause, and gives a result without the cause, raises nothing else. -/
theorem exec_error_iff_of_cause {i : Instr} {s : State} {k k' : ErrorKind} {cause : Prop}
    (herror : cause → exec i s = .next { s with resp := some (.error k) })
    (hresult : ¬ cause → ∃ r, exec i s = .next { s with resp := some r } ∧ ∀ e, r ≠ .error e) :
    exec i s = .next { s with resp := some (.error k') } ↔ cause ∧ k = k' := by
  by_cases h : cause
  · rw [exec_eq_iff_of_answered (herror h), Response.error.injEq, and_iff_right h]
  · obtain ⟨r, hexec, hr⟩ := hresult h
    rw [exec_eq_iff_of_answered hexec]
    exact ⟨fun he => absurd he (hr k'), fun ⟨hcause, _⟩ => absurd hcause h⟩

section
variable {s : State} {k : ErrorKind}

theorem exec_lookup_error_iff {a : Byte} (hwf : WfTable s.regtab) :
    exec (.lookup a) s = .next { s with resp := some (.error k) } ↔ 0x1F < a.toNat ∧ .unknownRegister = k := by
  refine exec_error_iff_of_cause (fun h => exec_lookup_unknown (.inl h)) fun h => ?_
  obtain ⟨d, -, hexec⟩ := exists_lookup_of_wf hwf (Nat.le_of_not_lt h)
  exact ⟨_, hexec, nofun⟩

theorem exec_bitname_error_iff {d : RegisterDef} {pos : Byte} :
    exec (.bitname d pos) s = .next { s with resp := some (.error k) } ↔ 7 < pos.toNat ∧ .invalidBitPosition = k :=
  exec_error_iff_of_cause exec_bitname_of_ge fun h => ⟨_, exec_bitname_of_lt (Nat.lt_of_not_ge h), nofun⟩

theorem in_range_of_not_out {chip raddr : Byte} (h : ¬ (7 < chip.toNat ∨ 0x1F < raddr.toNat)) :
    chip.toNat ≤ 7 ∧ raddr.toNat ≤ 0x1F := by
  omega

theorem exec_encrd_error_iff {chip raddr : Byte} :
    exec (.encrd chip raddr) s = .next { s with resp := some (.error k) } ↔
      (7 < chip.toNat ∨ 0x1F < raddr.toNat) ∧ .addressOutOfRange = k := by
  refine exec_error_iff_of_cause (fun h => exec_encrd_out_of_range h s) fun h => ?_
  obtain ⟨hc, hr⟩ := in_range_of_not_out h
  exact ⟨_, exec_encrd_in_range hc hr s, nofun⟩

theorem exec_encwr_error_iff {chip raddr wdata : Byte} :
    exec (.encwr chip raddr wdata) s = .next { s with resp := some (.error k) } ↔
      (7 < chip.toNat ∨ 0x1F < raddr.toNat) ∧ .addressOutOfRange = k := by
  refine exec_error_iff_of_cause (fun h => exec_encwr_out_of_range h wdata s) fun h => ?_
  obtain ⟨hc, hr⟩ := in_range_of_not_out h
  exact ⟨_, exec_encwr_in_range hc hr wdata s, nofun⟩

theorem exec_reserved (op : BitVec 3) (s : State) :
    exec (.reserved op) s = .next { s with resp := some (.error .reservedOp) } := rfl

/-- The operations that raise a kind of error, with the cause in their operands (R202 to R204, R207); the block has none for
`TransportFailure` (R200). -/
def RaisedBy (i : Instr) : ErrorKind → Prop
  | .addressOutOfRange => ∃ c r, (7 < c.toNat ∨ 0x1F < r.toNat) ∧ (i = .encrd c r ∨ ∃ v, i = .encwr c r v)
  | .unknownRegister => ∃ r, 0x1F < r.toNat ∧ i = .lookup r
  | .invalidBitPosition => ∃ d p, 7 < p.toNat ∧ i = .bitname d p
  | .transportFailure => False
  | .reservedOp => ∃ op, i = .reserved op

/-- Over a valid table an operation of the block raises an error exactly for its cause. -/
theorem exec_error_iff_raisedBy {i : Instr} (hwf : WfTable s.regtab) (hi : i.isRequest = true) :
    exec i s = .next { s with resp := some (.error k) } ↔ RaisedBy i k := by
  constructor
  · intro h
    cases i with
    | lookup a =>
      obtain ⟨ha, rfl⟩ := (exec_lookup_error_iff hwf).mp h
      exact ⟨a, ha, rfl⟩
    | bitname d pos =>
      obtain ⟨hp, rfl⟩ := exec_bitname_error_iff.mp h
      exact ⟨d, pos, hp, rfl⟩
    | encrd c r =>
      obtain ⟨hout, rfl⟩ := exec_encrd_error_iff.mp h
      exact ⟨c, r, hout, .inl rfl⟩
    | encwr c r v =>
      obtain ⟨hout, rfl⟩ := exec_encwr_error_iff.mp h
      exact ⟨c, r, hout, .inr ⟨v, rfl⟩⟩
    | decrsp f => cases (exec_eq_iff_of_answered (r := .value f.data) rfl).mp h
    | decbits v d => cases (exec_eq_iff_of_answered (r := .lanes (lanesOf v d)) rfl).mp h
    | reserved op =>
      cases (exec_eq_iff_of_answered (exec_reserved op s)).mp h
      exact ⟨op, rfl⟩
    | frameRd c r d => cases hi
    | frameWr c r v => cases hi
  · intro h
    cases k with
    | addressOutOfRange =>
      obtain ⟨c, r, hout, rfl | ⟨v, rfl⟩⟩ := h
      · exact exec_encrd_out_of_range hout s
      · exact exec_encwr_out_of_range hout v s
    | unknownRegister =>
      obtain ⟨r, hr, rfl⟩ := h
      exact exec_lookup_unknown (.inl hr)
    | invalidBitPosition =>
      obtain ⟨d, p, hp, rfl⟩ := h
      exact exec_bitname_of_ge hp
    | transportFailure => exact h.elim
    | reservedOp =>
      obtain ⟨op, rfl⟩ := h
      exact exec_reserved op s

end

/-! ### What the `err` port shows (R201) -/

theorem errorCode_ne_zero (k : ErrorKind) : errorCode k ≠ 0 := by
  cases k <;> decide

/-- Of the codes 4, 5 and 6 the first is `TransportFailure` and the others are no kind's. -/
theorem errorCode_mem_iff (k : ErrorKind) : errorCode k ∈ [4, 5, 6] ↔ k = .transportFailure := by
  cases k <;> decide

theorem errPort_eq_zero_iff (r : Response) : errPort r = 0 ↔ ∀ k, r ≠ .error k := by
  cases r with
  | error k => exact ⟨fun h => absurd h (errorCode_ne_zero k), fun h => absurd rfl (h k)⟩
  | definition | name | frame | value | lanes => exact ⟨fun _ _ => nofun, fun _ => rfl⟩

theorem errPort_mem_iff (r : Response) : errPort r ∈ [4, 5, 6] ↔ r = .error .transportFailure := by
  have hzero : (0 : BitVec 3) ∉ [4, 5, 6] := by decide
  cases r with
  | error k => rw [errPort, errorCode_mem_iff, Response.error.injEq]
  | definition | name | frame | value | lanes => exact ⟨fun h => absurd h hzero, nofun⟩

/-! ### How `RDBITS` ends with a bad operand (R208) -/

section
variable {s : State} {chip raddr : Byte}

theorem lineAnswered_lookup_error (h : 0x1F < raddr.toNat) :
    LineAnswered s (.lookup (.lit raddr)) (.error .unknownRegister) :=
  ⟨.lookup raddr, rfl, rfl, fun _ _ => exec_lookup_unknown (.inl h)⟩

/-- The chip is refused whatever register the line's argument names. -/
theorem lineAnswered_encrd_chip_error {a : ByteArg} (ha : evalByte s.vars a = some raddr) (h : 7 < chip.toNat) :
    LineAnswered s (.encrd (.lit chip) a) (.error .addressOutOfRange) :=
  ⟨.encrd chip raddr, rfl, congrArg (Option.map fun r => encode (.encrd chip r)) ha,
    fun u _ => exec_encrd_out_of_range (.inl h) u⟩

/-- With a good register address the first line finds the definition, whatever the chip, and the second refuses the chip. -/
theorem run_rdbits_bad_chip {k : Nat} {rest : List Line} (hwf : WfTable s.regtab) (hp : s.pending = none)
    (hc : s.current = rdbits chip raddr k ++ rest) (hraddr : raddr.toNat ≤ 0x1F) (hchip : 7 < chip.toNat) :
    ∃ d, runSteps 2 s =
      .next (endSequence .addressOutOfRange (drive (.error .addressOutOfRange) (lookedUp chip k d rest s))) := by
  obtain ⟨d, hd, -⟩ := exists_lookup_of_wf hwf hraddr
  obtain ⟨-, haddr⟩ := (getElem?_eq_some_iff_of_wf hwf).mp hd
  have hop : LineAnswered (lookedUp chip k d rest s) (.encrd (.lit chip) (.address (varD k))) (.error .addressOutOfRange) :=
    lineAnswered_encrd_chip_error (evalByte_address (lookupVar_cons_self ..) haddr) hchip
  have hfirst : runSteps 1 s = .next (lookedUp chip k d rest s) :=
    runSteps_one (step_answered hp hc (lineAnswered_lookup hwf hd))
  exact ⟨d, runSteps_trans hfirst (runSteps_one (step_answered hp rfl hop))⟩

end

end Machine

/-! ### The statements of 60_exceptions.md -/

open Machine

/-- Settles O28: each kind is raised by its own operations for its own cause, and the reserved row is decoded from 6 and 7 only. -/
theorem eachKindHasItsOwnRaisers : Obligations.EachKindHasItsOwnRaisers := by
  intro i s hwf hi
  have raised {k} : exec i s = .next { s with resp := some (.error k) } ↔ RaisedBy i k := exec_error_iff_raisedBy hwf hi
  refine ⟨raised, raised, raised, raised, fun q => ?_, fun t => response_ne_transportFailure hi⟩
  exact (exec_error_iff_raisedBy hwf (decodeRequest_isRequest q)).trans decode_request_reserved_iff

/-- Settles O29: the block's response is never `TransportFailure`, the one kind whose code is among 4, 5 and 6. -/
theorem blockNeverDrivesTransportFailure : Obligations.BlockNeverDrivesTransportFailure := by
  refine ⟨⟨rfl, rfl, rfl, rfl, rfl⟩, fun i s hi => ?_⟩
  obtain ⟨r, hr, hexec⟩ := exists_response hi s.regtab
  exact ⟨r, hexec s rfl, errPort_eq_zero_iff r, mt (errPort_mem_iff r).mp hr⟩

/-- Settles O52: `LOOKUP` comes first and reads no chip; `ENCRD` comes next, before anything is sent. -/
theorem rdbitsErrorPriority : Obligations.RdbitsErrorPriority := by
  refine fun s chip raddr k rest hwf hp hc =>
    ⟨fun hraddr => step_answered hp hc (lineAnswered_lookup_error hraddr), fun hraddr hchip => ?_⟩
  obtain ⟨d, hrun⟩ := run_rdbits_bad_chip hwf hp hc hraddr hchip
  exact ⟨_, hrun, rfl, rfl, rfl, rfl, hp⟩

/-- Settles O22: both codes decode to the reserved row, whose meaning is the error. -/
theorem reservedCodesRaiseReservedOp : Obligations.ReservedCodesRaiseReservedOp := by
  intro s r h
  rw [decode_of_six_le_op ((six_le_toNat_iff r.op).mpr h), exec_reserved]

/-- Settles O30: the response is fixed by operands and table, and takes the place of the error shown. -/
theorem noMemoryOfAnError : Obligations.NoMemoryOfAnError := by
  intro i s k hi
  obtain ⟨r, hr, hr'⟩ := responseDependsOnOperandsAndTable i s { s with resp := some (.error k) } hi rfl
  rw [hr, hr']

end Sys2Proof
end

section
/-! PROOFS. What the result ports show after the step of a presented request, and which steps leave a result on them; and the
statement of 70_reset_and_hazards.md, assembled from the two. -/

namespace Sys2Proof

namespace Machine

/-- A presented request is answered in the very step that presents it, and what then shows is the block's answer in the state the
caller presents it in: the block does not see which lines the caller has taken (R20, R250). -/
theorem resp_of_step_request {s t : State} {l : Line} {rest : List Line} {more : List (List Line)} {q : Request}
    (hp : s.pending = none) (hl : takeLine s.current s.agenda = some (l, rest, more))
    (hv : presentLine s.vars l.op = some (.request q)) (h : step s = .next t) :
    ∃ r, exec (decode (.request q)) s = .next { s with resp := some r } ∧ t.resp = some r := by
  obtain ⟨r, -, hr⟩ := exists_response (decodeRequest_isRequest q) s.regtab
  have hstep : step s = finishLine l.dst (.next (drive r { s with current := rest, agenda := more })) :=
    (step_presented hp hl hv).trans (congrArg (finishLine l.dst) (hr _ rfl))
  cases hstep.symm.trans h
  exact ⟨r, hr s rfl, settle_resp_eq ..⟩

/-- Only the step that presents a request leaves a result on the ports: the transport's answer, an idle caller and a frame handed
over all take it off (R250; log entry 2). -/
theorem request_of_step_resp_ne_none {s t : State} (h : step s = .next t) (hresp : t.resp ≠ none) :
    s.pending = none ∧ ∃ l rest more q,
      takeLine s.current s.agenda = some (l, rest, more) ∧ presentLine s.vars l.op = some (.request q) := by
  cases hp : s.pending with
  | some f =>
    cases (step_blocked hp).symm.trans h
    exact absurd (answerExchange_resp f s) hresp
  | none =>
    obtain ⟨-, rfl⟩ | ⟨l, rest, more, p, u, hl, hv, hu, rfl⟩ := step_unblocked_next hp h
    · exact absurd (release_resp s) hresp
    · rw [settle_resp_eq] at hresp
      obtain ⟨q, -, rfl, -⟩ | ⟨f, -, -, rfl⟩ := exec_decode_next hu
      · exact ⟨rfl, l, rest, more, q, hl, hv⟩
      · exact absurd rfl hresp

end Machine

/-! ### The statement of 70_reset_and_hazards.md -/

open Machine

/-- Settles O56: only a presented request leaves a result on the ports, and it leaves its own answer there. -/
theorem resultsShowWhileHeld : Obligations.ResultsShowWhileHeld := by
  refine fun s t hstep => ⟨⟨request_of_step_resp_ne_none hstep, fun ⟨hp, l, rest, more, q, hl, hv⟩ => ?shows⟩,
    fun l rest more q hp hl hv => resp_of_step_request hp hl hv hstep⟩
  case shows =>
    obtain ⟨r, -, hresp⟩ := resp_of_step_request hp hl hv hstep
    simp [hresp]

end Sys2Proof
end
